-- ==== Sys2Proof/Word.lean ====
section
/-! DEFINITION. The widths of the block's values (00_scope.md R15): every value is unsigned. -/

namespace Sys2Proof

/-- `u8` of R15. -/
abbrev Byte := BitVec 8

/-- `u16` of R15. -/
abbrev Word := BitVec 16

/-- `u7` of R15: a logical command id (R50). -/
abbrev CmdId := BitVec 7

end Sys2Proof
end

