-- ==== Sys2Proof/Config.lean ====
section
/-! DEFINITION. The implementation parameters of 00_scope.md section 3, and the one free value.

The constants R5 to R9 are fixed. The named parameters of R10 to R13 are the fields of `Params`, which `State` carries
unchanged, so that statements hold for every value of them; `Params.default` holds the spec's defaults. The values at reset
that the spec leaves open (R14, R19, R20) are `BootValues` in Machine/State.lean. -/

namespace Sys2Proof

namespace Config

/-- R5. -/
def sync : Byte := 0xAA

/-- R6. -/
def marker : Byte := 0x55

/-- R7: the CRC-8 generator constant. -/
def poly : Byte := 0xD5

/-- R7: the accumulator's initial value. -/
def crcInit : Byte := 0x00

/-- R8, R60: the last payload byte of every response but GET_SETTINGS (the spec's decision D4). -/
def reservedByte : Byte := 0x01

/-- R9: the fixed power table, in dBm. -/
def powerLevels : List Byte := [0, 14, 20, 23]

/-- R9, C6: the count field holds 3 although four levels follow. -/
def levelCount : Byte := 3

/-- R10. -/
def numChannels : Nat := 48

/-- R90 `draw_u8()`: the fresh, unconstrained value of the n-th draw of a run. It has no body, so nothing can be proved of
it: a statement about it holds for every value (log 7; DESIGN CHOICE in form, the spec asks for a draw; safe). -/
opaque drawU8 : Nat → Byte

/-- 93_implementation_defined.md G2, bands 0 to 2. -/
def freqBandsLow : List Word :=
  [5865, 5845, 5825, 5805, 5785, 5765, 5745, 5725] ++
  [5733, 5752, 5771, 5790, 5809, 5828, 5847, 5866] ++
  [5705, 5685, 5665, 5645, 5885, 5905, 5925, 5945]

/-- 93_implementation_defined.md G2, bands 3 to 5. -/
def freqBandsHigh : List Word :=
  [5740, 5760, 5780, 5800, 5820, 5840, 5860, 5880] ++
  [5658, 5695, 5732, 5769, 5806, 5843, 5880, 5917] ++
  [5362, 5399, 5436, 5473, 5510, 5547, 5584, 5621]

/-- The default of FREQ_TABLE (R10, D21, G2). PRESUMED but for entries 0, 1 and 40, which R10 pins (log 9; unsafe). -/
def freqTableDefault : Vector Word 48 :=
  ⟨(freqBandsLow ++ freqBandsHigh).toArray, rfl⟩

end Config

/-- The parameter CMD_ID (R11): the logical id of each of the five commands. -/
structure CmdIds where
  getSettings  : CmdId
  setPower     : CmdId
  setChannel   : CmdId
  setFrequency : CmdId
  setMode      : CmdId
deriving DecidableEq, Repr

/-- R11's default numbering (D2, G1). PRESUMED (log 8; unsafe). -/
def CmdIds.default : CmdIds where
  getSettings  := 1
  setPower     := 2
  setChannel   := 3
  setFrequency := 4
  setMode      := 5

/-- The parameters a machine is built with (R10 to R13). No step changes them. -/
structure Params where
  /-- RX_CAP, the receive buffer's capacity in bytes (R12). -/
  rxCap     : Nat
  /-- TX_CAP, the transmit buffer's capacity in bytes (R13). -/
  txCap     : Nat
  /-- CMD_ID (R11). -/
  cmdId     : CmdIds
  /-- FREQ_TABLE, the channel-table ROM (R10, R33), in MHz by channel index. -/
  freqTable : Vector Word 48
deriving DecidableEq, Repr

/-- The spec's defaults: RX_CAP 259 (D11), TX_CAP the least value R13 admits (log 11), CMD_ID (D2) and FREQ_TABLE (D21). -/
def Params.default : Params where
  rxCap     := 259
  txCap     := 16
  cmdId     := CmdIds.default
  freqTable := Config.freqTableDefault

/-- The settings register file `S` (R23 to R31). -/
structure Settings where
  /-- R23. -/
  channel      : Byte
  /-- R24: only the environment writes it (D7). -/
  powerIndex   : Byte
  /-- R25. -/
  rawPowerDbm  : Byte
  /-- R26. -/
  frequencyMhz : Word
  /-- R27: frequency independent of channel. -/
  freqIndep    : Bool
  /-- R28. -/
  pitInRange   : Bool
  /-- R29. -/
  pitOutRange  : Bool
  /-- R30: stored and reported; it gates nothing (R110). -/
  unlocked     : Bool
  /-- R31: the pending-persistence flag behind `mark_dirty()`. -/
  dirty        : Bool
deriving DecidableEq, Repr

end Sys2Proof
end

