-- ==== Sys2Proof/Machine/Crc8.lean ====
section
/-! DEFINITION. The CRC-8 checksum unit (40_crc8.md R65 to R67): the bitwise construction, as the spec writes it. -/

namespace Sys2Proof.Machine

/-- One round of R65: shift left, discarding bit 7, and XOR with POLY if that bit was set (with nothing if not). -/
def crcRound (acc : Byte) : Byte :=
  (acc <<< 1) ^^^ (if acc.getLsbD 7 then Config.poly else 0)

/-- `n` rounds of R65. -/
def crcRounds : Nat → Byte → Byte
  | 0, acc => acc
  | n + 1, acc => crcRounds n (crcRound acc)

/-- R65, one input byte: XOR it into the accumulator, then eight rounds. -/
def crcByte (acc b : Byte) : Byte := crcRounds 8 (acc ^^^ b)

/-- R65 over a list, from an accumulator. -/
def crcFrom (acc : Byte) : List Byte → Byte
  | [] => acc
  | b :: bs => crcFrom (crcByte acc b) bs

/-- The CRC-8 of a whole byte list (R65 with n its length). -/
def crc8 (bytes : List Byte) : Byte := crcFrom Config.crcInit bytes

/-- R65 `crc8(bytes, n)`: the CRC-8 of the first n bytes. -/
def crc8N (bytes : List Byte) (n : Nat) : Byte := crc8 (bytes.take n)

/-- R66: the checksum of a frame covers CMD, LEN and the payload, not SYNC or MARKER. -/
def frameCrc (cmd len : Byte) (payload : List Byte) : Byte := crc8 (cmd :: len :: payload)

end Sys2Proof.Machine
end

