-- ==== Sys2Proof/Syntax.lean ====
section
/-! DEFINITION. The instructions: one constructor per row of spec/opcode_table.json.

A request frame is `AA 55 CMD LEN payload[LEN] CRC` (30_encoding.md R48). Its command id picks the constructor (R51); what
else varies is the framing flag CMD[0] (R50) and the payload, of any length LEN can announce (R49, R53: LEN is not checked
against the command's request size). LEN and CRC are determined by these. -/

namespace Sys2Proof

inductive Instr
  /-- GET_SETTINGS (R94): the payload is ignored. -/
  | getSettings (flag : Bool) (payload : List Byte)
  /-- SET_POWER (R95): request byte 0 is the power byte P (R55). -/
  | setPower (flag : Bool) (payload : List Byte)
  /-- SET_CHANNEL (R96): request byte 0 is the channel index CH. -/
  | setChannel (flag : Bool) (payload : List Byte)
  /-- SET_FREQUENCY (R97): request bytes 0 and 1 are F, big-endian (R56). -/
  | setFrequency (flag : Bool) (payload : List Byte)
  /-- SET_MODE (R98): request byte 0 is the mode byte M (R57). -/
  | setMode (flag : Bool) (payload : List Byte)
deriving DecidableEq, Repr

/-- The framing flag, CMD[0] (R50). -/
def Instr.flag : Instr → Bool
  | .getSettings f _ => f
  | .setPower f _ => f
  | .setChannel f _ => f
  | .setFrequency f _ => f
  | .setMode f _ => f

/-- The payload bytes, frame offsets 4 to 3 + LEN (R48). -/
def Instr.payload : Instr → List Byte
  | .getSettings _ p => p
  | .setPower _ p => p
  | .setChannel _ p => p
  | .setFrequency _ p => p
  | .setMode _ p => p

end Sys2Proof
end

