-- ==== Sys2Proof/WellFormed.lean ====
section
/-! DEFINITION. Well-formed instructions and legal parameters. -/

namespace Sys2Proof

/-- An instruction has a frame: its payload's length fits the LEN byte (R48: "payload length, 0 to 255"). -/
abbrev Instr.WellFormed (i : Instr) : Prop := i.payload.length ≤ 255

/-- The five command ids differ, so that the dispatch table (R87) names one handler per id. -/
abbrev CmdIds.Distinct (ids : CmdIds) : Prop :=
  [ids.getSettings, ids.setPower, ids.setChannel, ids.setFrequency, ids.setMode].Nodup

/-- The parameter values the spec admits: TX_CAP holds the largest response (R13), the ids differ (R11), and the three
pinned table entries stand (R10). RX_CAP may be any size (R12). -/
structure Params.Legal (p : Params) : Prop where
  txCap   : 16 ≤ p.txCap
  cmdId   : p.cmdId.Distinct
  table0  : p.freqTable[0] = 5865
  table1  : p.freqTable[1] = 5845
  table40 : p.freqTable[40] = 5362

end Sys2Proof
end

