-- ==== Sys2Proof/Decode.lean ====
section
/-! DEFINITION. The encoding of frames (30_encoding.md): the command byte, the decoder, the encoder, the frame notation of
R63 and R64, and the host's view of one opcode-table word. -/

namespace Sys2Proof

open Sys2Proof.Machine (crc8 frameCrc)

/-- R50 (encode): `CMD = ((id << 1) | flag) & 0xFF`. -/
def cmdByte (id : CmdId) (flag : Bool) : Byte :=
  (id.setWidth 8 <<< 1) ||| (BitVec.ofBool flag).setWidth 8

/-- R50 (decode), R88: `id = CMD >> 1`. -/
def cmdIdOf (cmd : Byte) : CmdId := (cmd >>> 1).setWidth 7

/-- R50: `flag = CMD[0]`. -/
def cmdFlagOf (cmd : Byte) : Bool := cmd.getLsbD 0

/-- The LEN byte of a payload (R48). -/
def lenByte (payload : List Byte) : Byte := BitVec.ofNat 8 payload.length

/-- The instruction a checksum-valid frame body names (R51, R87): exact match of CMD[7:1] on the five ids; none for an
unmapped id (R52, R89). -/
def decodeBody (ids : CmdIds) (cmd : Byte) (payload : List Byte) : Option Instr :=
  if cmdIdOf cmd = ids.getSettings then some (.getSettings (cmdFlagOf cmd) payload)
  else if cmdIdOf cmd = ids.setPower then some (.setPower (cmdFlagOf cmd) payload)
  else if cmdIdOf cmd = ids.setChannel then some (.setChannel (cmdFlagOf cmd) payload)
  else if cmdIdOf cmd = ids.setFrequency then some (.setFrequency (cmdFlagOf cmd) payload)
  else if cmdIdOf cmd = ids.setMode then some (.setMode (cmdFlagOf cmd) payload)
  else none

/-- Why a byte sequence does not begin with an instruction's frame. -/
inductive DecodeError
  /-- The first byte is not SYNC (R62). -/
  | noSync
  /-- The second byte is not MARKER (R62). -/
  | noMarker
  /-- The sequence ends before the frame does (R49). -/
  | truncated
  /-- The last byte is not the checksum of the body (R66). -/
  | checksumMismatch
  /-- The command id is none of the five (R52). -/
  | unmappedId
deriving DecidableEq, Repr

/-- What the decoder answers: an instruction and the bytes after its frame, or a rejection by name. -/
inductive Decoded
  | instr (i : Instr) (rest : List Byte)
  | reject (why : DecodeError)
deriving DecidableEq, Repr

/-- R48, R49, R66: the part of a frame from CMD on. -/
def decodeFromCmd (ids : CmdIds) : List Byte → Decoded
  | cmd :: len :: rest =>
    match rest.drop len.toNat with
    | crc :: after =>
      if crc = frameCrc cmd len (rest.take len.toNat) then
        match decodeBody ids cmd (rest.take len.toNat) with
        | some i => .instr i after
        | none => .reject .unmappedId
      else .reject .checksumMismatch
    | [] => .reject .truncated
  | _ => .reject .truncated

/-- The decoder: the instruction at the front of a byte sequence (R48, R62). It is total. -/
def decode (ids : CmdIds) : List Byte → Decoded
  | b0 :: rest0 =>
    if b0 = Config.sync then
      match rest0 with
      | b1 :: rest => if b1 = Config.marker then decodeFromCmd ids rest else .reject .noMarker
      | [] => .reject .truncated
    else .reject .noSync
  | [] => .reject .truncated

/-- R51: the logical id of an instruction's command. -/
def Instr.cmdId (ids : CmdIds) : Instr → CmdId
  | .getSettings _ _ => ids.getSettings
  | .setPower _ _ => ids.setPower
  | .setChannel _ _ => ids.setChannel
  | .setFrequency _ _ => ids.setFrequency
  | .setMode _ _ => ids.setMode

/-- R50, R51: the command byte of an instruction's frame. -/
def Instr.cmd (ids : CmdIds) (i : Instr) : Byte := cmdByte (i.cmdId ids) i.flag

/-- R63 `FRAME c l b0 ..` with the modifier `!crc=xx`: the bytes of a frame whose checksum byte is given. -/
def frameWithCrc (cmd : Byte) (payload : List Byte) (crc : Byte) : List Byte :=
  Config.sync :: Config.marker :: cmd :: lenByte payload :: (payload ++ [crc])

/-- R63 `FRAME c l b0 ..` (R48): a frame with its true checksum. -/
def frameBytes (cmd : Byte) (payload : List Byte) : List Byte :=
  frameWithCrc cmd payload (frameCrc cmd (lenByte payload) payload)

/-- The encoder, R63 `REQ`: the frame of an instruction (R48, R51). -/
def encode (ids : CmdIds) (i : Instr) : List Byte := frameBytes (i.cmd ids) i.payload

/-- R63 `REQ SET_FREQUENCY f`: f is written verbatim, high byte first. -/
def reqSetFrequency (f : Word) : Instr := .setFrequency false [f.extractLsb' 8 8, f.extractLsb' 0 8]

/-- R64 `PIT_FREQ_GET`. -/
def pitFreqGet : Instr := reqSetFrequency 0x4000

/-- R64 `PIT_FREQ_SET f`: `0x8000 | f[13:0]`. -/
def pitFreqSet (f : Word) : Instr := reqSetFrequency (0x8000 ||| (f &&& 0x3FFF))

/-- R64 `CLEAR_PIT m`. -/
def clearPit (m : Byte) : Instr := .setMode false [m ||| 0x04]

/-- R64 `SET_POWER_LEGACY p`. -/
def setPowerLegacy (p : Byte) : Instr := .setPower false [p ||| 0x80]

/-- Byte k of an instruction whose table bits are w: the table numbers the CMD byte's bits from 0, and what lies above
nbits is zero. -/
def tableByte (nbits w k : Nat) : Byte := BitVec.ofNat 8 ((w % 2 ^ nbits) >>> (8 * k))

/-- The frame body (CMD, LEN, payload) of a table word: CMD is the table's word, LEN and the payload are the bytes above
it (zero where the table gives none, so LEN = 0 for the eight-bit rows). -/
def tableBody (nbits w : Nat) : List Byte :=
  tableByte nbits w 0 :: tableByte nbits w 1 ::
    (List.range (tableByte nbits w 1).toNat).map (fun k => tableByte nbits w (k + 2))

/-- The bytes of a table word's frame as the hardware receives them: SYNC, MARKER, the body and its checksum. -/
def tableFrame (nbits w : Nat) : List Byte :=
  Config.sync :: Config.marker :: (tableBody nbits w ++ [crc8 (tableBody nbits w)])

/-- The instruction the decoder reads from a table word. -/
def decodeTableWord (nbits w : Nat) : Option Instr :=
  match decode CmdIds.default (tableFrame nbits w) with
  | .instr i _ => some i
  | .reject _ => none

end Sys2Proof
end

