-- ==== Sys2Proof/Machine/State.lean ====
section
/-! DEFINITION. The state of the block (10_state.md), its reset (70_reset_and_hazards.md R121), and the reasons a step stops.

All of it is plain data. The two pieces of state that live only within one operation, the CRC accumulator and the transmit
buffer (R34), are no fields. -/

namespace Sys2Proof.Machine

/-- R17: the framing states. -/
inductive Fsm
  | awaitSync
  | awaitMarker
  | awaitCommand
  | awaitLength
  | awaitPayload
  | awaitChecksum
deriving DecidableEq, Repr

/-- R17, R22: the kinds of the sticky fault record. They do not stop the block (R106). -/
inductive FaultKind
  /-- R104. -/
  | invalidChannel
  /-- R105. -/
  | rxOverflow
deriving DecidableEq, Repr

/-- FAULTS (R22): a set of fault kinds, one membership flag each. -/
structure FaultRecord where
  invalidChannel : Bool
  rxOverflow     : Bool
deriving DecidableEq, Repr

/-- R121: FAULTS is empty. -/
def FaultRecord.empty : FaultRecord := { invalidChannel := false, rxOverflow := false }

/-- The drop codes of R100 to R105, in the order of their numbers 1 to 6 (D30). -/
inductive DropCode
  | desyncSync
  | desyncMarker
  | crcMismatch
  | unknownCommand
  | invalidChannel
  | rxOverflow
deriving DecidableEq, Repr

/-- The collaborator events of R42 (00_scope.md R15). -/
inductive Event
  /-- R111 `write_bytes`: a whole frame handed to the transport. -/
  | txBytes (frame : List Byte)
  /-- R111 `flush`. -/
  | flush
  /-- R113 `tune`. -/
  | tune (mhz : Word)
  /-- R114 `set_power_dBm`. -/
  | setPowerDbm (dbm : Byte)
  /-- R112 `mark_dirty`. -/
  | markDirty
  /-- R115 `set_indicator`. -/
  | setIndicator (on : Bool)
deriving DecidableEq, Repr

/-- One write of the environment to one field of `S` between steps (R32, R126). -/
inductive SettingsWrite
  | channel (v : Byte)
  | powerIndex (v : Byte)
  | rawPowerDbm (v : Byte)
  | frequencyMhz (v : Word)
  | freqIndep (v : Bool)
  | pitInRange (v : Bool)
  | pitOutRange (v : Bool)
  | unlocked (v : Bool)
  /-- With `false`, the persistence collaborator's clearing of S.dirty (R31); R32 and R130 admit a write of any field. -/
  | dirty (v : Bool)
deriving DecidableEq, Repr

/-- What the environment may do between steps (R130): deliver one input byte (R111), or write the settings (R126). -/
inductive EnvEvent
  | byte (b : Byte)
  | write (w : SettingsWrite)
deriving DecidableEq, Repr

/-- The receive buffer's contents (R20): cells by address, in one canonical form. -/
abbrev Memory := List Host.Cell

/-- What an address without a cell reads as. DESIGN CHOICE (log 6; unsafe). -/
def Memory.unlisted : Byte := 0x00

/-- The canonical form: addresses strictly rise, and no cell holds what an unlisted address reads as. -/
abbrev Memory.wf (m : Memory) : Prop :=
  m.Pairwise (fun p q => p.1 < q.1) ∧ ∀ c ∈ m, c.2 ≠ Memory.unlisted

/-- Why the model stops. The block itself never halts (R75, R129): each case is a state that the invariants of R85 rule
out, where the spec gives the checksum check nothing to read. All are safe (log 14). -/
inductive Fault
  /-- Raised by the checksum check (R82) when `idx` is past RX_CAP: it would read an address outside RX (R36). Safe. -/
  | rxOutside
  /-- Raised by the checksum check (R82) when `idx` is below 4: R73 defines the header fields only from 4 on. Safe. -/
  | headerIncomplete
deriving DecidableEq, Repr

/-- What the model refuses by name. -/
inductive Refusal
  /-- Raised by exec for an instruction that has no meaning yet. No arm raises it in this model. Safe. -/
  | notModelled (mnemonic : String)
  /-- Raised by Respond (R71) for a response longer than TX_CAP: R72 asks a model to refuse it. No handler meets it when
  TX_CAP is at least 16 (R13). Safe (log 13). -/
  | responseTooLong
deriving DecidableEq, Repr

/-- The state of the block, and beside it the environment's pending actions. -/
structure State where
  /-- The parameters the block was built with (R10 to R13), FREQ_TABLE among them (R33). -/
  params   : Params
  /-- R17. -/
  fsm      : Fsm
  /-- R18: bytes of the current frame stored so far. -/
  idx      : Word
  /-- R19: the expected length of the current frame, without its checksum byte. -/
  expected : Word
  /-- R20. -/
  rxbuf    : Memory
  /-- R21: the transient pit-mode register. -/
  pitMode  : Bool
  /-- R23 to R31: the settings register file S. -/
  settings : Settings
  /-- R22: FAULTS. -/
  faults   : FaultRecord
  /-- R127, R129, R130: what the environment will still do, in order. -/
  input    : List EnvEvent
  /-- R42: the output trace, oldest first. -/
  trace    : List Event
  /-- R15 `Drop`, R99: the drop codes noted so far, oldest first; an annotation no rule reads (log 16). -/
  drops    : List DropCode
  /-- The model's own counter of values drawn by R90 (log 7). -/
  draws    : Nat
deriving DecidableEq, Repr

/-- What the spec leaves open of the state at power-on. -/
structure BootValues where
  /-- PIT_MODE_AT_RESET (R14, D18). -/
  pitMode  : Bool
  /-- SETTINGS_AT_RESET (R14, D19); its `dirty` is not used, since R121 resets S.dirty to false. -/
  settings : Settings
  /-- `expected`, unspecified at reset (R19, I14). -/
  expected : Word
  /-- The receive buffer's bytes, unspecified at reset (R20, I14). -/
  rxbuf    : Memory
deriving DecidableEq, Repr

/-- The boot contents of the receive buffer are a canonical memory within RX's addresses (R36). -/
structure BootValues.Legal (boot : BootValues) (p : Params) : Prop where
  canon : boot.rxbuf.wf
  inRx  : ∀ c ∈ boot.rxbuf, c.1 < p.rxCap

/-- The values `State.reset` takes for what is open. DESIGN CHOICE (log 3 to log 6; unsafe): the spec gives none, so every
flag is false and every register and buffer byte zero. -/
def BootValues.zero : BootValues where
  pitMode  := false
  settings :=
    { channel := 0, powerIndex := 0, rawPowerDbm := 0, frequencyMhz := 0, freqIndep := false, pitInRange := false,
      pitOutRange := false, unlocked := false, dirty := false }
  expected := 0
  rxbuf    := []

/-- The state after power-on (R120 to R122) of a block with these parameters whose open values are these. -/
def State.powerOn (p : Params) (boot : BootValues) : State where
  params   := p
  fsm      := .awaitSync
  idx      := 0
  expected := boot.expected
  rxbuf    := boot.rxbuf
  pitMode  := boot.pitMode
  settings := { boot.settings with dirty := false }
  faults   := FaultRecord.empty
  input    := []
  trace    := []
  drops    := []
  draws    := 0

/-- The machine right after reset (R121): the spec's default parameters, and zeros for what the spec leaves open (log 3 to
log 6). -/
def State.reset : State := State.powerOn Params.default BootValues.zero

end Sys2Proof.Machine
end

