-- ==== Sys2Proof/Machine/Ops.lean ====
section
/-! DEFINITION. The named operations over the state: events, drop codes and faults, the parser reset, the receive buffer, and
the environment's writes.

The block has no trap, trap entry or return (60_exceptions.md R99, R109). What the spec puts in their place is here:
`raise Fault(k)` (R22), `Drop(code)` (R15) and `ParserReset()` (R83), after which the step goes on (R106). -/

namespace Sys2Proof.Machine

/-- The numeric state codes of R17 (D30); no interface of the block shows them. -/
def Fsm.code : Fsm → Nat
  | .awaitSync => 0
  | .awaitMarker => 1
  | .awaitCommand => 2
  | .awaitLength => 3
  | .awaitPayload => 4
  | .awaitChecksum => 5

/-- The numbers of the drop codes, R100 to R105 (D30). -/
def DropCode.code : DropCode → Nat
  | .desyncSync => 1
  | .desyncMarker => 2
  | .crcMismatch => 3
  | .unknownCommand => 4
  | .invalidChannel => 5
  | .rxOverflow => 6

/-- `Emit(e)` (R15, R42). -/
def State.emit (e : Event) (s : State) : State := { s with trace := s.trace ++ [e] }

/-- `Drop(code)` (R15). -/
def State.noteDrop (d : DropCode) (s : State) : State := { s with drops := s.drops ++ [d] }

/-- FAULTS with one more kind in it. -/
def FaultRecord.add (k : FaultKind) (f : FaultRecord) : FaultRecord :=
  match k with
  | .invalidChannel => { f with invalidChannel := true }
  | .rxOverflow => { f with rxOverflow := true }

/-- Membership in FAULTS. -/
def FaultRecord.has (k : FaultKind) (f : FaultRecord) : Bool :=
  match k with
  | .invalidChannel => f.invalidChannel
  | .rxOverflow => f.rxOverflow

/-- `raise Fault(k)` (R15, R22, R106): k is added to the sticky record, and the step goes on. -/
def State.raiseFault (k : FaultKind) (s : State) : State := { s with faults := s.faults.add k }

/-- `ParserReset()` (R83). -/
def State.parserReset (s : State) : State := { s with fsm := .awaitSync, idx := 0 }

/-- `Emit(MarkDirty); S.dirty <- true` (R31, R112). -/
def State.markDirty (s : State) : State :=
  { s.emit .markDirty with settings := { s.settings with dirty := true } }

/-- The byte a memory holds at an address. -/
def Memory.read : Memory → Nat → Byte
  | [], _ => Memory.unlisted
  | (k, v) :: m, a => if a = k then v else Memory.read m a

/-- Put a cell at an address, in the place its address has in the order. -/
def Memory.put : Memory → Nat → Byte → Memory
  | [], a, v => [(a, v)]
  | (k, w) :: m, a, v =>
    if a = k then (a, v) :: m
    else if a < k then (a, v) :: (k, w) :: m
    else (k, w) :: Memory.put m a v

/-- Write one byte, keeping the canonical form: writing what an unlisted address reads as removes the cell. -/
def Memory.write (m : Memory) (a : Nat) (v : Byte) : Memory :=
  if v = Memory.unlisted then m.filter (fun c => c.1 ≠ a) else m.put a v

/-- Write consecutive bytes from an address. -/
def Memory.writeAll : Memory → Nat → List Byte → Memory
  | m, _, [] => m
  | m, a, v :: vs => Memory.writeAll (m.write a v) (a + 1) vs

/-- The `n` bytes from address `a`. -/
def Memory.readRange (m : Memory) : Nat → Nat → List Byte
  | _, 0 => []
  | a, n + 1 => m.read a :: Memory.readRange m (a + 1) n

/-- `Store(b)` (R76), the only writer of `rxbuf`: whether the byte was stored, and the state after. -/
def State.store (b : Byte) (s : State) : Bool × State :=
  if s.params.rxCap ≤ s.idx.toNat then
    (false, ((s.raiseFault .rxOverflow).noteDrop .rxOverflow).parserReset)
  else
    (true, { s with rxbuf := s.rxbuf.write s.idx.toNat b, idx := s.idx + 1 })

/-- `Store(b)` and, if the byte was stored, `f`. If it was not, the parser reset of Store is the last word (R105, D11;
log 12). -/
def State.storeThen (b : Byte) (f : State → State) (s : State) : State :=
  let r := s.store b
  if r.1 then f r.2 else r.2

/-- `RxBody() = rxbuf[2 .. idx)` (R73), the bytes the checksum covers. -/
def State.rxBody (s : State) : List Byte := s.rxbuf.readRange 2 (s.idx.toNat - 2)

/-- One write of the environment to S (R32, R126). -/
def envWriteSettings (w : SettingsWrite) (x : Settings) : Settings :=
  match w with
  | .channel v => { x with channel := v }
  | .powerIndex v => { x with powerIndex := v }
  | .rawPowerDbm v => { x with rawPowerDbm := v }
  | .frequencyMhz v => { x with frequencyMhz := v }
  | .freqIndep v => { x with freqIndep := v }
  | .pitInRange v => { x with pitInRange := v }
  | .pitOutRange v => { x with pitOutRange := v }
  | .unlocked v => { x with unlocked := v }
  | .dirty v => { x with dirty := v }

/-- Continue from a next state; a stop stays a stop. -/
def onNext (f : State → State) : Host.Outcome State Fault Refusal → Host.Outcome State Fault Refusal
  | .next s => .next (f s)
  | .fault r => .fault r
  | .refused r => .refused r

end Sys2Proof.Machine
end

