-- ==== Sys2Proof/Machine/Codec.lean ====
section
/-! DEFINITION. The frame codec (41_frame_codec.md): the transmit buffer of one response, built, signed and handed to the
transport. The buffer lives only within `respond` (R34). -/

namespace Sys2Proof.Machine

/-- A fresh transmit buffer of 5 + len bytes (R69). Its first contents cannot be seen: every byte is written before the
buffer is handed over (log 18). -/
def freshTx (len : Nat) : List Byte := List.replicate (5 + len) 0

/-- `MemWrite(TX, addr, 1, v)`. -/
def txWrite (tx : List Byte) (addr : Nat) (v : Byte) : List Byte := tx.set addr v

/-- `MemWrite(TX, off + k, 1, vs[k])` for every k. -/
def txWriteAll : List Byte → Nat → List Byte → List Byte
  | tx, _, [] => tx
  | tx, off, v :: vs => txWriteAll (txWrite tx off v) (off + 1) vs

/-- `BuildHeader(cmd, len)` (R69): the buffer with its header, and the offset of payload byte 0. -/
def buildHeader (cmd len : Byte) : List Byte × Nat :=
  (txWrite (txWrite (txWrite (txWrite (freshTx len.toNat) 0 Config.sync) 1 Config.marker) 2 cmd) 3 len, 4)

/-- The signing half of `FinalizeAndSend(tx)` (R70): the checksum of CMD, LEN and payload, written after the payload. -/
def signTx (tx : List Byte) : List Byte :=
  match tx with
  | _ :: _ :: body =>
    match body with
    | _ :: len :: _ => txWrite tx (4 + len.toNat) (crc8N body (2 + len.toNat))
    | _ => tx
  | _ => tx

/-- `FinalizeAndSend(tx)` (R70): sign, then TxBytes and Flush. -/
def State.finalizeAndSend (tx : List Byte) (s : State) : State :=
  (s.emit (.txBytes (signTx tx))).emit .flush

/-- R61: the command byte of a response: the id shifted, framing flag 0 (D3). -/
def responseCmd (id : CmdId) : Byte := cmdByte id false

/-- The buffer `Respond(id, payload)` builds (R71), before it is signed. -/
def responseTx (id : CmdId) (payload : List Byte) : List Byte :=
  txWriteAll (buildHeader (responseCmd id) (lenByte payload)).1 (buildHeader (responseCmd id) (lenByte payload)).2 payload

/-- R72: the transmit bound. -/
def fitsTx (p : Params) (payload : List Byte) : Bool := decide (5 + payload.length ≤ p.txCap)

/-- `Respond(id, payload)` (R71) if `go`, and nothing otherwise. A response over the bound is refused, as R72 asks of a
model (log 13). `p` are the machine's parameters, which no handler changes. -/
def respondIf (go : Bool) (p : Params) (id : CmdId) (payload : List Byte) (s : State) : Host.Outcome State Fault Refusal :=
  if fitsTx p payload then .next (if go then s.finalizeAndSend (responseTx id payload) else s)
  else if go then .refused .responseTooLong
  else .next s

/-- `Respond(id, payload)` (R71). -/
def respond (p : Params) (id : CmdId) (payload : List Byte) (s : State) : Host.Outcome State Fault Refusal :=
  respondIf true p id payload s

end Sys2Proof.Machine
end

