-- ==== Sys2Proof/Machine/Operands.lean ====
section
/-! DEFINITION. Every operand form: the request operand fetch (43_dispatch.md R90), big-endian fields (20_memory.md R38), the
fields of each request (30_encoding.md R55 to R57), and the channel lookup (44_commands.md R93). -/

namespace Sys2Proof.Machine

/-- `draw_u8()` (R15, R90): a fresh unconstrained byte. -/
def State.drawU8 (s : State) : Byte × State :=
  (Config.drawU8 s.draws, { s with draws := s.draws + 1 })

/-- `ReqByte(payload, k)` (R90): byte k of the payload, or a draw where the payload is too short. -/
def State.reqByte (payload : List Byte) (k : Nat) (s : State) : Byte × State :=
  match payload[k]? with
  | some b => (b, s)
  | none => s.drawU8

/-- `BE16(hi, lo)` (R15, R38). -/
def be16 (hi lo : Byte) : Word := (hi.setWidth 16 <<< 8) ||| lo.setWidth 16

/-- `HI(v) = v[15:8]` (R15). -/
def hiByte (v : Word) : Byte := v.extractLsb' 8 8

/-- `LO(v) = v[7:0]` (R15). -/
def loByte (v : Word) : Byte := v.extractLsb' 0 8

/-- R55: the power value in dBm, the request byte with its legacy flag (bit 7) cleared. -/
def powerValue (p : Byte) : Byte := p &&& 0x7F

/-- R56: F[14] or F[15] is set, a legacy pit-mode frequency sub-command. -/
def isLegacyFrequency (f : Word) : Bool := f.getLsbD 14 || f.getLsbD 15

/-- R57: M[0]. -/
def modePitInRange (m : Byte) : Bool := m.getLsbD 0

/-- R57: M[1]. -/
def modePitOutRange (m : Byte) : Bool := m.getLsbD 1

/-- R57: M[2]. -/
def modeClearPit (m : Byte) : Bool := m.getLsbD 2

/-- R57: M[3]. Bits 7:4 have no accessor: nothing reads them (D25). -/
def modeUnlocked (m : Byte) : Bool := m.getLsbD 3

/-- `FreqForChannel(ch)` (R93): the ROM entry of an index below 48, which the caller guards. -/
def freqForChannel (table : Vector Word 48) (ch : Fin 48) : Word := table[ch]

end Sys2Proof.Machine
end

