-- ==== Sys2Proof/Machine/Flags.lean ====
section
/-! DEFINITION. The flag bytes. The block has no condition codes (10_state.md R35); its flags are the booleans of R21 and R27
to R31, and these are the two bytes that report them, with different layouts (30_encoding.md R58, R59). -/

namespace Sys2Proof.Machine

/-- A flag at a bit position of a byte. -/
def flagBit (b : Bool) (pos : Nat) : Byte := (BitVec.ofBool b).setWidth 8 <<< pos

/-- R59: the GET_SETTINGS mode byte (bit positions by D5). -/
def settingsModeByte (pitMode : Bool) (x : Settings) : Byte :=
  flagBit x.freqIndep 0 ||| flagBit pitMode 1 ||| flagBit x.pitInRange 2 ||| flagBit x.pitOutRange 3 |||
    flagBit x.unlocked 4

/-- R58: the SET_MODE response's mode byte, computed after the handler's updates. -/
def modeResponseByte (pitMode : Bool) (x : Settings) : Byte :=
  flagBit x.pitInRange 0 ||| flagBit x.pitOutRange 1 ||| flagBit pitMode 2 ||| flagBit x.unlocked 3

end Sys2Proof.Machine
end

