-- ==== Sys2Proof/Machine/Commands.lean ====
section
/-! DEFINITION. The five command handlers (44_commands.md R94 to R98). A handler runs to completion inside the step that
dispatched it (43_dispatch.md R92); the order of its events is the order of the rule's pseudocode (D16). None reads the
framing flag (R88) or tests a mode (60_exceptions.md R110). -/

namespace Sys2Proof.Machine

/-- R94, R54: the GET_SETTINGS response's payload. -/
def settingsReport (s : State) : List Byte :=
  [s.settings.channel, s.settings.powerIndex, settingsModeByte s.pitMode s.settings,
    hiByte s.settings.frequencyMhz, loByte s.settings.frequencyMhz, s.settings.rawPowerDbm, Config.levelCount] ++
    Config.powerLevels

/-- GET_SETTINGS (R94): a pure read; the payload is ignored (D26). -/
def execGetSettings (_flag : Bool) (_payload : List Byte) (s : State) : Host.Outcome State Fault Refusal :=
  respond s.params s.params.cmdId.getSettings (settingsReport s) s

/-- R95 up to its response: apply, store, mark dirty. -/
def State.applyPower (p : Byte) (s : State) : State :=
  let s1 := s.emit (.setPowerDbm p)
  { s1 with settings := { s1.settings with rawPowerDbm := p } }.markDirty

/-- SET_POWER (R95): the response echoes the request byte as received (D8). -/
def execSetPower (_flag : Bool) (payload : List Byte) (s : State) : Host.Outcome State Fault Refusal :=
  let P := (s.reqByte payload 0).1
  respond s.params s.params.cmdId.setPower [P, Config.reservedByte] ((s.reqByte payload 0).2.applyPower (powerValue P))

/-- R96 up to its response, for a channel index below 48: store, look up, tune, clear the independence flag, mark dirty. -/
def State.applyChannel (ch : Fin 48) (chByte : Byte) (s : State) : State :=
  let f := freqForChannel s.params.freqTable ch
  let s1 := { s with settings := { s.settings with channel := chByte, frequencyMhz := f } }.emit (.tune f)
  { s1 with settings := { s1.settings with freqIndep := false } }.markDirty

/-- R96, the guard (D9): an index of 48 or more raises InvalidChannel and changes nothing else. -/
def State.guardChannel (ch : Byte) (s : State) : State :=
  if h : ch.toNat < 48 then s.applyChannel ⟨ch.toNat, h⟩ ch
  else (s.raiseFault .invalidChannel).noteDrop .invalidChannel

/-- SET_CHANNEL (R96): a rejected channel gets no response (R91, C7). -/
def execSetChannel (_flag : Bool) (payload : List Byte) (s : State) : Host.Outcome State Fault Refusal :=
  let ch := (s.reqByte payload 0).1
  respondIf (decide (ch.toNat < Config.numChannels)) s.params s.params.cmdId.setChannel [ch, Config.reservedByte]
    ((s.reqByte payload 0).2.guardChannel ch)

/-- R97 up to its response: the legacy path changes nothing; the normal path stores F verbatim, tunes, sets the
independence flag, marks dirty. -/
def State.applyFrequency (f : Word) (s : State) : State :=
  if isLegacyFrequency f then s
  else
    let s1 := { s with settings := { s.settings with frequencyMhz := f } }.emit (.tune f)
    { s1 with settings := { s1.settings with freqIndep := true } }.markDirty

/-- SET_FREQUENCY (R97): the response carries the resulting frequency. -/
def execSetFrequency (_flag : Bool) (payload : List Byte) (s : State) : Host.Outcome State Fault Refusal :=
  let hi := s.reqByte payload 0
  let lo := hi.2.reqByte payload 1
  let t := lo.2.applyFrequency (be16 hi.1 lo.1)
  respond s.params s.params.cmdId.setFrequency
    [hiByte t.settings.frequencyMhz, loByte t.settings.frequencyMhz, Config.reservedByte] t

/-- R98 up to its response. -/
def State.applyMode (m : Byte) (s : State) : State :=
  let s1 := { s with settings := { s.settings with pitInRange := modePitInRange m, pitOutRange := modePitOutRange m } }
  let s2 := if modeClearPit m then { s1 with pitMode := false }.emit (.setPowerDbm s1.settings.rawPowerDbm) else s1
  { s2 with settings := { s2.settings with unlocked := modeUnlocked m } }.markDirty

/-- SET_MODE (R98): the response is computed from the state after the updates (R58). -/
def execSetMode (_flag : Bool) (payload : List Byte) (s : State) : Host.Outcome State Fault Refusal :=
  let t := (s.reqByte payload 0).2.applyMode (s.reqByte payload 0).1
  respond s.params s.params.cmdId.setMode [modeResponseByte t.pitMode t.settings, Config.reservedByte] t

end Sys2Proof.Machine
end

