-- ==== Sys2Proof/Machine/Dispatch.lean ====
section
/-! DEFINITION. The meaning of every instruction, one arm per row of spec/opcode_table.json (43_dispatch.md R87). -/

namespace Sys2Proof.Machine

def exec (i : Instr) (s : State) : Host.Outcome State Fault Refusal :=
  match i with
  | .getSettings flag payload => Sys2Proof.Machine.execGetSettings flag payload s
  | .setPower flag payload => Sys2Proof.Machine.execSetPower flag payload s
  | .setChannel flag payload => Sys2Proof.Machine.execSetChannel flag payload s
  | .setFrequency flag payload => Sys2Proof.Machine.execSetFrequency flag payload s
  | .setMode flag payload => Sys2Proof.Machine.execSetMode flag payload s

end Sys2Proof.Machine
end

