-- ==== Sys2Proof/Machine/Framing.lean ====
section
/-! DEFINITION. The dispatch router (43_dispatch.md R87) and the framing state machine (42_framing_fsm.md R75 to R83), over
one input byte; then one move of the block and its environment (70_reset_and_hazards.md R126, R129). -/

namespace Sys2Proof.Machine

/-- `Dispatch(id, payload)` (R87): the handler of the frame's id between the two indicator events (D15); an unmapped id
runs none and notes drop code 4 (R89). -/
def dispatch (cmd : Byte) (payload : List Byte) (s : State) : Host.Outcome State Fault Refusal :=
  match decodeBody s.params.cmdId cmd payload with
  | some i => onNext (State.emit (.setIndicator false)) (exec i (s.emit (.setIndicator true)))
  | none => .next (((s.emit (.setIndicator true)).noteDrop .unknownCommand).emit (.setIndicator false))

/-- `OnSync(b)` (R77). -/
def onSync (b : Byte) (s : State) : State :=
  if b = Config.sync then s.storeThen b (fun t => { t with fsm := .awaitMarker })
  else { s with idx := 0 }.noteDrop .desyncSync

/-- `OnMarker(b)` (R78): a rejected byte is not looked at again (D14). -/
def onMarker (b : Byte) (s : State) : State :=
  if b = Config.marker then s.storeThen b (fun t => { t with fsm := .awaitCommand })
  else (s.noteDrop .desyncMarker).parserReset

/-- `OnCommand(b)` (R79). -/
def onCommand (b : Byte) (s : State) : State := s.storeThen b (fun t => { t with fsm := .awaitLength })

/-- `OnLength(b)` (R80): `expected` is written only for a nonzero length (D29), from `idx` after the store (C8). -/
def onLength (b : Byte) (s : State) : State :=
  s.storeThen b (fun t =>
    if b = 0 then { t with fsm := .awaitChecksum }
    else { t with expected := t.idx + b.setWidth 16, fsm := .awaitPayload })

/-- `OnPayload(b)` (R81). -/
def onPayload (b : Byte) (s : State) : State :=
  s.storeThen b (fun t => if t.idx = t.expected then { t with fsm := .awaitChecksum } else t)

/-- R82 once RxBody() is read (R73): compare, dispatch or drop, and in both cases reset the parser. The checksum byte is
not stored (D13). -/
def checkBody (b : Byte) (body : List Byte) (s : State) : Host.Outcome State Fault Refusal :=
  match body with
  | cmd :: _len :: payload =>
    if b = crc8 body then onNext State.parserReset (dispatch cmd payload s)
    else .next (s.noteDrop .crcMismatch).parserReset
  | _ => .fault .headerIncomplete

/-- `OnChecksum(b)` (R82). The stops are states R85 rules out (log 14). -/
def onChecksum (b : Byte) (s : State) : Host.Outcome State Fault Refusal :=
  if s.params.rxCap < s.idx.toNat then .fault .rxOutside
  else checkBody b s.rxBody s

/-- `Step(b)` (R75). -/
def stepByte (b : Byte) (s : State) : Host.Outcome State Fault Refusal :=
  match s.fsm with
  | .awaitSync => .next (onSync b s)
  | .awaitMarker => .next (onMarker b s)
  | .awaitCommand => .next (onCommand b s)
  | .awaitLength => .next (onLength b s)
  | .awaitPayload => .next (onPayload b s)
  | .awaitChecksum => onChecksum b s

/-- One move: the environment's next action, taken from `input`. A delivered byte is one `Step` (R111); a settings write
happens between steps (R126); with nothing pending the caller does not invoke the block, and it holds its state (R119;
log 1). -/
def move (s : State) : Host.Outcome State Fault Refusal :=
  match s.input with
  | [] => .next s
  | .write w :: rest => .next { s with input := rest, settings := envWriteSettings w s.settings }
  | .byte b :: rest => stepByte b { s with input := rest }

/-- The state in which all of a table word's frame but its checksum byte has been received (R85, row AwaitChecksum), and
that byte comes next (log 2). -/
def State.withFrameReceived (nbits w : Nat) (s : State) : State :=
  { s with
    fsm := .awaitChecksum
    idx := BitVec.ofNat 16 (2 + (tableBody nbits w).length)
    expected := if (tableBody nbits w).length ≤ 2 then s.expected else BitVec.ofNat 16 (2 + (tableBody nbits w).length)
    rxbuf := s.rxbuf.writeAll 0 (Config.sync :: Config.marker :: tableBody nbits w)
    input := .byte (crc8 (tableBody nbits w)) :: s.input }

end Sys2Proof.Machine
end

