-- ==== Sys2Proof/Machine/Step.lean ====
section
/-! DEFINITION. One step of the machine, and the state in which its next step runs a given table word. -/

namespace Sys2Proof.Machine

/-- One step: one move of the block and its environment (42_framing_fsm.md R75, 70_reset_and_hazards.md R126). -/
def step (s : State) : Host.Outcome State Fault Refusal := move s

/-- `s` with the frame of a table word received up to its checksum byte, which is the next input byte, so that the next
step runs that instruction (log 2). -/
def State.withFetchWord (s : State) (nbits w : Nat) : State := s.withFrameReceived nbits w

end Sys2Proof.Machine
end

