-- ==== Sys2Proof/Safety.lean ====
section
/-! DEFINITION. The terms claims use: the invariants of 42_framing_fsm.md R85, the premise FAULTS = {} of 60_exceptions.md
R106, well-formed output traces (R43, R71), and the observation of a run (R129). -/

namespace Sys2Proof.Machine

/-- R85, the column rxbuf: the current frame's first two bytes are SYNC and MARKER. -/
structure State.FrameStored (s : State) : Prop where
  sync   : 1 ≤ s.idx.toNat → s.rxbuf.read 0 = Config.sync
  marker : 2 ≤ s.idx.toNat → s.rxbuf.read 1 = Config.marker

/-- R85, the column idx, row by row. -/
def State.IndexFits (s : State) : Prop :=
  match s.fsm with
  | .awaitSync => s.idx.toNat = 0
  | .awaitMarker => s.idx.toNat = 1
  | .awaitCommand => s.idx.toNat = 2
  | .awaitLength => s.idx.toNat = 3
  | .awaitPayload =>
    4 ≤ s.idx.toNat ∧ s.idx.toNat < s.expected.toNat ∧ s.expected.toNat = 4 + (s.rxbuf.read 3).toNat ∧
      1 ≤ (s.rxbuf.read 3).toNat
  | .awaitChecksum => s.idx.toNat = 4 + (s.rxbuf.read 3).toNat

/-- The invariants of R85, with R18's bound on `idx`, legal parameters, and the receive buffer in canonical form within
RX's addresses (R36). -/
structure State.Inv (s : State) : Prop where
  legal    : s.params.Legal
  canon    : s.rxbuf.wf
  inRx     : ∀ c ∈ s.rxbuf, c.1 < s.params.rxCap
  idxInRx  : s.idx.toNat ≤ s.params.rxCap
  stored   : s.FrameStored
  index    : s.IndexFits

/-- R106: the premise a claim about the repository's code takes. -/
abbrev State.FaultFree (s : State) : Prop := s.faults = FaultRecord.empty

/-- A frame the block may transmit: it decodes whole, as a frame of one of the five commands with framing flag 0 (R61, R74). -/
def isResponseFrame (ids : CmdIds) (frame : List Byte) : Bool :=
  match decode ids frame with
  | .instr i rest => !i.flag && rest.isEmpty
  | .reject _ => false

/-- A trace in which every TxBytes carries a response frame and is followed at once by its Flush, and no other Flush
stands (R43, R71). -/
def traceWellFormed (ids : CmdIds) : List Event → Bool
  | [] => true
  | .txBytes f :: .flush :: es => isResponseFrame ids f && traceWellFormed ids es
  | .txBytes _ :: _ => false
  | .flush :: _ => false
  | .tune _ :: es => traceWellFormed ids es
  | .setPowerDbm _ :: es => traceWellFormed ids es
  | .markDirty :: es => traceWellFormed ids es
  | .setIndicator _ :: es => traceWellFormed ids es

/-- R48, R66: the bytes of a frame with its true checksum, written out. -/
def wireFrame (cmd : Byte) (payload : List Byte) : List Byte :=
  [0xAA, 0x55, cmd, BitVec.ofNat 8 payload.length] ++ payload ++
    [crc8 (cmd :: BitVec.ofNat 8 payload.length :: payload)]

/-- R90: byte k of a request, where `d` is the draw that stands in for a missing one. -/
def requestByte (payload : List Byte) (k : Nat) (d : Byte) : Byte := (payload[k]?).getD d

/-- R96, R104: the instruction is a SET_CHANNEL whose channel byte is 48 or more. -/
def rejectedChannel (i : Instr) (s : State) : Bool :=
  match i with
  | .setChannel _ payload => decide (48 ≤ (requestByte payload 0 (Config.drawU8 s.draws)).toNat)
  | .getSettings _ _ => false
  | .setPower _ _ => false
  | .setFrequency _ _ => false
  | .setMode _ _ => false

/-- An event without the bytes it transmits. -/
def Event.withoutBytes : Event → Event
  | .txBytes _ => .txBytes []
  | e => e

/-- The response frames of a trace, in order. -/
def responsesOf : List Event → List (List Byte)
  | [] => []
  | .txBytes f :: es => f :: responsesOf es
  | _ :: es => responsesOf es

/-- R129: what is observed of a run: the output trace, the final block state, and the final S. -/
structure Observation where
  trace    : List Event
  fsm      : Fsm
  idx      : Word
  pitMode  : Bool
  faults   : FaultRecord
  settings : Settings
deriving DecidableEq, Repr

/-- The observation of a final state (R129). -/
def State.observe (s : State) : Observation :=
  { trace := s.trace, fsm := s.fsm, idx := s.idx, pitMode := s.pitMode, faults := s.faults, settings := s.settings }

/-- Two states that differ at most in what R19 and R20 call unobservable: `expected` outside AwaitPayload, and the receive
buffer at or beyond `idx`. -/
structure SameObservable (s t : State) : Prop where
  params   : s.params = t.params
  fsm      : s.fsm = t.fsm
  idx      : s.idx = t.idx
  expected : s.fsm = .awaitPayload → s.expected = t.expected
  rxbuf    : ∀ a < s.idx.toNat, s.rxbuf.read a = t.rxbuf.read a
  pitMode  : s.pitMode = t.pitMode
  settings : s.settings = t.settings
  faults   : s.faults = t.faults
  input    : s.input = t.input
  trace    : s.trace = t.trace
  drops    : s.drops = t.drops
  draws    : s.draws = t.draws

/-- `n` steps, stopping at the first stop. -/
def runSteps : Nat → State → Host.Outcome State Fault Refusal
  | 0, s => .next s
  | n + 1, s =>
    match step s with
    | .next t => runSteps n t
    | .fault r => .fault r
    | .refused r => .refused r

end Sys2Proof.Machine
end

