-- ==== Sys2Proof/Certificates/Slice0/Obligations.lean ====
section
/-! DEFINITION. The statements for the provers. Each docstring names the rules it formalises; where a clause rests on a
decision of the spec (D<n>) or a choice of the model (log n), it says so. -/

open Sys2Proof Sys2Proof.Machine

/-! ## The CRC-8 unit -/

/-- R65: zero for no bytes; each further byte is XORed into the accumulator and followed by eight rounds of "if bit 7 is
set, shift left and XOR 0xD5, else shift left"; `crc8(bytes, n)` takes the first n bytes. -/
def Obligations.Crc8IsBitwiseConstruction : Prop :=
  crc8 [] = 0 ∧
  (∀ (m : List Byte) (b : Byte),
    crc8 (m ++ [b]) =
      (fun acc : Byte => if acc.getLsbD 7 then (acc <<< 1) ^^^ 0xD5 else acc <<< 1)^[8] (crc8 m ^^^ b)) ∧
  (∀ (m rest : List Byte), crc8N (m ++ rest) m.length = crc8 m)

/-- R68 (a), a derived property: a message followed by its own CRC has CRC 0. -/
def Obligations.Crc8ResidueIsZero : Prop :=
  ∀ m : List Byte, crc8 (m ++ [crc8 m]) = 0

/-- R68 (b), a derived property: linearity over equal lengths. -/
def Obligations.Crc8IsLinear : Prop :=
  ∀ a b : List Byte, a.length = b.length → crc8 (List.zipWith (· ^^^ ·) a b) = crc8 a ^^^ crc8 b

/-- R68 (c), a derived property: a change within one byte, so in particular of one bit, changes the CRC. -/
def Obligations.Crc8DetectsOneChangedByte : Prop :=
  ∀ (before after : List Byte) (b c : Byte), b ≠ c → crc8 (before ++ b :: after) ≠ crc8 (before ++ c :: after)

/-! ## The encoding -/

/-- R48, R49, R50, R51, R66: for every numbering of distinct ids, decoding the frame of a well-formed instruction gives it
back, with its flag and every payload, and leaves the bytes after the frame. -/
def Obligations.DecodeOfEncode : Prop :=
  ∀ (ids : CmdIds) (i : Instr) (rest : List Byte), ids.Distinct → i.WellFormed →
    decode ids (encode ids i ++ rest) = .instr i rest

/-- R48, R49, R62: what decodes to an instruction begins with exactly that instruction's frame, so each frame has one
meaning and nothing but a frame decodes. -/
def Obligations.EncodeOfDecode : Prop :=
  ∀ (ids : CmdIds) (bytes : List Byte) (i : Instr) (rest : List Byte), decode ids bytes = .instr i rest →
    i.WellFormed ∧ bytes = encode ids i ++ rest

/-- R51, R63 with the default ids (D2, log 8): the frames of 95_test_vectors.md rows F1 to F6, written out, decode to the
instructions they stand for. -/
def Obligations.WrittenOutFramesDecode : Prop :=
  decode CmdIds.default [0xAA, 0x55, 0x02, 0x00, 0x16] = .instr (.getSettings false []) [] ∧
  decode CmdIds.default [0xAA, 0x55, 0x03, 0x00, 0x1D] = .instr (.getSettings true []) [] ∧
  decode CmdIds.default [0xAA, 0x55, 0x04, 0x01, 0x0E, 0xD0] = .instr (.setPower false [0x0E]) [] ∧
  decode CmdIds.default [0xAA, 0x55, 0x06, 0x01, 0x01, 0x7E] = .instr (.setChannel false [0x01]) [] ∧
  decode CmdIds.default [0xAA, 0x55, 0x08, 0x02, 0x16, 0xA8, 0x6C] = .instr (.setFrequency false [0x16, 0xA8]) [] ∧
  decode CmdIds.default [0xAA, 0x55, 0x0A, 0x01, 0x04, 0xC0] = .instr (.setMode false [0x04]) []

/-- R52 with the default ids (D2, log 8): the unmapped command bytes are 0x00, 0x01 and 0x0C to 0xFF, and no others. -/
def Obligations.UnmappedCommandBytes : Prop :=
  ∀ (cmd : Byte) (payload : List Byte),
    decodeBody CmdIds.default cmd payload = none ↔ cmd.toNat < 0x02 ∨ 0x0C ≤ cmd.toNat

/-- R88: the dispatch key is `command_byte >> 1`; command bytes 2k and 2k+1 select the same handler, with the same effect. -/
def Obligations.DispatchKeyedByShiftedCommand : Prop :=
  (∀ (c d : Byte) (payload : List Byte) (s : State), c >>> 1 = d >>> 1 → dispatch c payload s = dispatch d payload s) ∧
  (∀ (k : CmdId) (payload : List Byte) (s : State),
    dispatch (k.setWidth 8 <<< 1) payload s = dispatch ((k.setWidth 8 <<< 1) ||| 1) payload s)

/-- R38, R15: the 16-bit field of two bytes is big-endian, and HI and LO take it apart. -/
def Obligations.BigEndianFields : Prop :=
  (∀ h l : Byte, (be16 h l).toNat = 256 * h.toNat + l.toNat) ∧
  (∀ h l : Byte, hiByte (be16 h l) = h ∧ loByte (be16 h l) = l) ∧
  (∀ v : Word, be16 (hiByte v) (loByte v) = v)

/-! ## The frame codec -/

/-- R69: BuildHeader writes sync, marker, command and length at offsets 0 to 3 of a buffer of 5 + len bytes and returns
offset 4. -/
def Obligations.BuildHeaderWritesHeader : Prop :=
  ∀ cmd len : Byte,
    (buildHeader cmd len).1.take 4 = [0xAA, 0x55, cmd, len] ∧
    (buildHeader cmd len).1.length = 5 + len.toNat ∧
    (buildHeader cmd len).2 = 4

/-- R70, R71, R61 (framing flag 0: D3): Respond, for any payload that LEN and TX_CAP admit, changes nothing but the trace,
to which it appends one TxBytes with the whole signed frame and then one Flush. -/
def Obligations.RespondSendsOneSignedFrame : Prop :=
  ∀ (p : Params) (id : CmdId) (payload : List Byte) (s : State),
    payload.length ≤ 255 → 5 + payload.length ≤ p.txCap →
    respond p id payload s =
      .next { s with trace := s.trace ++ [.txBytes (wireFrame (id.setWidth 8 <<< 1) payload), .flush] }

/-- R72, I2: a response over the transmit bound is refused by name. -/
def Obligations.RespondRefusesOverlongFrame : Prop :=
  ∀ (p : Params) (id : CmdId) (payload : List Byte) (s : State),
    p.txCap < 5 + payload.length → respond p id payload s = .refused .responseTooLong

/-! ## The handlers: result, completion and frame -/

/-- R94, R59 (bit positions D5), R54: GET_SETTINGS, whatever its flag and payload (D26), answers one frame with the eleven
reported bytes, and changes nothing but the trace. -/
def Obligations.GetSettingsAnswers : Prop :=
  ∀ (flag : Bool) (payload : List Byte) (s : State), 16 ≤ s.params.txCap →
    ∃ mode : Byte,
      mode.toNat = s.settings.freqIndep.toNat + 2 * s.pitMode.toNat + 4 * s.settings.pitInRange.toNat +
        8 * s.settings.pitOutRange.toNat + 16 * s.settings.unlocked.toNat ∧
      exec (.getSettings flag payload) s =
        .next { s with trace := s.trace ++
          [.txBytes (wireFrame (s.params.cmdId.getSettings.setWidth 8 <<< 1)
            [s.settings.channel, s.settings.powerIndex, mode, s.settings.frequencyMhz.extractLsb' 8 8,
              s.settings.frequencyMhz.extractLsb' 0 8, s.settings.rawPowerDbm, 3, 0, 14, 20, 23]), .flush] }

/-- R95, R55, R90 (D4, D7, D8, D16; a missing byte is a draw, log 7): SET_POWER applies and stores the request byte with bit
7 cleared, marks dirty, and echoes the byte as received; nothing else changes. -/
def Obligations.SetPowerAppliesAndEchoes : Prop :=
  ∀ (flag : Bool) (payload : List Byte) (s : State) (P : Byte), 16 ≤ s.params.txCap →
    P = requestByte payload 0 (Config.drawU8 s.draws) →
    exec (.setPower flag payload) s =
      .next { s with
        settings := { s.settings with rawPowerDbm := P &&& 0x7F, dirty := true }
        draws := s.draws + (1 - payload.length)
        trace := s.trace ++ [.setPowerDbm (P &&& 0x7F), .markDirty,
          .txBytes (wireFrame (s.params.cmdId.setPower.setWidth 8 <<< 1) [P, 0x01]), .flush] }

/-- R96, R93, R90 (D4, D8, D16; log 7), for a channel index below 48: SET_CHANNEL stores it and its table frequency, tunes,
clears the independence flag, marks dirty, and echoes the index; nothing else changes. -/
def Obligations.SetChannelStoresAndTunes : Prop :=
  ∀ (flag : Bool) (payload : List Byte) (s : State) (ch : Byte) (h : ch.toNat < 48), 16 ≤ s.params.txCap →
    ch = requestByte payload 0 (Config.drawU8 s.draws) →
    exec (.setChannel flag payload) s =
      .next { s with
        settings := { s.settings with
          channel := ch, frequencyMhz := s.params.freqTable[ch.toNat], freqIndep := false, dirty := true }
        draws := s.draws + (1 - payload.length)
        trace := s.trace ++ [.tune s.params.freqTable[ch.toNat], .markDirty,
          .txBytes (wireFrame (s.params.cmdId.setChannel.setWidth 8 <<< 1) [ch, 0x01]), .flush] }

/-- R96, R104 (D9), for an index of 48 or more: SET_CHANNEL records InvalidChannel and drop code 5; no settings field, no
event and no response. -/
def Obligations.SetChannelRejectsOutOfRange : Prop :=
  ∀ (flag : Bool) (payload : List Byte) (s : State) (ch : Byte), 48 ≤ ch.toNat →
    ch = requestByte payload 0 (Config.drawU8 s.draws) →
    exec (.setChannel flag payload) s =
      .next { s with
        faults := { s.faults with invalidChannel := true }
        drops := s.drops ++ [.invalidChannel]
        draws := s.draws + (1 - payload.length) }

/-- R97, R56, R90 (D4, D16; log 7), normal path, for F below 0x4000: SET_FREQUENCY stores F verbatim, tunes, sets the
independence flag, marks dirty, and answers F; nothing else changes. -/
def Obligations.SetFrequencyStoresVerbatim : Prop :=
  ∀ (flag : Bool) (payload : List Byte) (s : State) (hi lo : Byte), 16 ≤ s.params.txCap →
    hi = requestByte payload 0 (Config.drawU8 s.draws) →
    lo = requestByte payload 1 (Config.drawU8 (s.draws + (1 - payload.length))) →
    256 * hi.toNat + lo.toNat < 0x4000 →
    exec (.setFrequency flag payload) s =
      .next { s with
        settings := { s.settings with frequencyMhz := hi ++ lo, freqIndep := true, dirty := true }
        draws := s.draws + (2 - payload.length)
        trace := s.trace ++ [.tune (hi ++ lo), .markDirty,
          .txBytes (wireFrame (s.params.cmdId.setFrequency.setWidth 8 <<< 1) [hi, lo, 0x01]), .flush] }

/-- R97, R56, R90 (D4, D17; log 7), legacy path, for F of 0x4000 or more (bit 14 or bit 15 set): SET_FREQUENCY answers the
current frequency and changes nothing but the trace (and the draws it took). -/
def Obligations.SetFrequencyLegacyChangesNothing : Prop :=
  ∀ (flag : Bool) (payload : List Byte) (s : State) (hi lo : Byte), 16 ≤ s.params.txCap →
    hi = requestByte payload 0 (Config.drawU8 s.draws) →
    lo = requestByte payload 1 (Config.drawU8 (s.draws + (1 - payload.length))) →
    0x4000 ≤ 256 * hi.toNat + lo.toNat →
    exec (.setFrequency flag payload) s =
      .next { s with
        draws := s.draws + (2 - payload.length)
        trace := s.trace ++ [.txBytes (wireFrame (s.params.cmdId.setFrequency.setWidth 8 <<< 1)
          [s.settings.frequencyMhz.extractLsb' 8 8, s.settings.frequencyMhz.extractLsb' 0 8, 0x01]), .flush] }

/-- R98, R57, R58, R90 (D4, D16, D25; log 7): SET_MODE stores M[0], M[1] and M[3]; if M[2] is set it clears pit mode and
re-applies the stored power; it marks dirty and answers the reconstructed mode byte, whose bit 2 is the pit mode after the
update; nothing else changes. -/
def Obligations.SetModeStoresAndReports : Prop :=
  ∀ (flag : Bool) (payload : List Byte) (s : State) (M : Byte), 16 ≤ s.params.txCap →
    M = requestByte payload 0 (Config.drawU8 s.draws) →
    ∃ r : Byte,
      r.toNat = (M.getLsbD 0).toNat + 2 * (M.getLsbD 1).toNat + 4 * (s.pitMode && !M.getLsbD 2).toNat +
        8 * (M.getLsbD 3).toNat ∧
      exec (.setMode flag payload) s =
        .next { s with
          pitMode := s.pitMode && !M.getLsbD 2
          settings := { s.settings with
            pitInRange := M.getLsbD 0, pitOutRange := M.getLsbD 1, unlocked := M.getLsbD 3, dirty := true }
          draws := s.draws + (1 - payload.length)
          trace := s.trace ++ (if M.getLsbD 2 then [.setPowerDbm s.settings.rawPowerDbm] else []) ++
            [.markDirty, .txBytes (wireFrame (s.params.cmdId.setMode.setWidth 8 <<< 1) [r, 0x01]), .flush] }

/-- R64, R97: for every f, the pseudo-instructions PIT_FREQ_SET f and PIT_FREQ_GET take the legacy path: no settings field,
no pit mode, no Tune, no MarkDirty. -/
def Obligations.LegacyPseudoInstructionsOnlyAnswer : Prop :=
  ∀ (f : Word) (i : Instr) (s : State), 16 ≤ s.params.txCap → i = pitFreqSet f ∨ i = pitFreqGet →
    exec i s = .next { s with trace := s.trace ++ [.txBytes (wireFrame (s.params.cmdId.setFrequency.setWidth 8 <<< 1)
      [s.settings.frequencyMhz.extractLsb' 8 8, s.settings.frequencyMhz.extractLsb' 0 8, 0x01]), .flush] }

/-- The frame of all five handlers (R32, R44, R92 and the "Written" lines of R94 to R98): the parameters and the ROM, the
parser registers, every byte of the receive buffer, the pending input and S.power_index are unchanged by each; and each
leaves every other field but those its rule names. -/
def Obligations.HandlersLeaveTheRest : Prop :=
  ∀ (i : Instr) (s t : State), exec i s = .next t →
    (t.params = s.params ∧ t.fsm = s.fsm ∧ t.idx = s.idx ∧ t.expected = s.expected ∧ t.input = s.input ∧
      (∀ a, t.rxbuf.read a = s.rxbuf.read a) ∧ t.settings.powerIndex = s.settings.powerIndex) ∧
    (match i with
    | .getSettings _ _ =>
      t.settings = s.settings ∧ t.pitMode = s.pitMode ∧ t.faults = s.faults ∧ t.drops = s.drops ∧ t.draws = s.draws
    | .setPower _ _ =>
      t.settings = { s.settings with rawPowerDbm := t.settings.rawPowerDbm, dirty := true } ∧
      t.pitMode = s.pitMode ∧ t.faults = s.faults ∧ t.drops = s.drops
    | .setChannel _ _ =>
      t.settings = { s.settings with
        channel := t.settings.channel, frequencyMhz := t.settings.frequencyMhz, freqIndep := t.settings.freqIndep,
        dirty := t.settings.dirty } ∧
      t.pitMode = s.pitMode ∧ t.faults.rxOverflow = s.faults.rxOverflow
    | .setFrequency _ _ =>
      t.settings = { s.settings with
        frequencyMhz := t.settings.frequencyMhz, freqIndep := t.settings.freqIndep, dirty := t.settings.dirty } ∧
      t.pitMode = s.pitMode ∧ t.faults = s.faults ∧ t.drops = s.drops
    | .setMode _ _ =>
      t.settings = { s.settings with
        pitInRange := t.settings.pitInRange, pitOutRange := t.settings.pitOutRange, unlocked := t.settings.unlocked,
        dirty := true } ∧
      t.faults = s.faults ∧ t.drops = s.drops)

/-- R91, R43 (the exception: D9), by cases: a SET_CHANNEL whose byte is 48 or more appends no event and records
InvalidChannel; every other handler appends events of which exactly one is a TxBytes, followed at once by the one Flush and
nothing after. -/
def Obligations.HandlersAnswerExactlyOnce : Prop :=
  ∀ (i : Instr) (s t : State), exec i s = .next t →
    if rejectedChannel i s then t.trace = s.trace ∧ t.faults.invalidChannel = true
    else ∃ (acts : List Event) (frame : List Byte), t.trace = s.trace ++ acts ++ [.txBytes frame, .flush] ∧
      ∀ e ∈ acts, e = .markDirty ∨ (∃ f, e = .tune f) ∨ (∃ p, e = .setPowerDbm p)

/-- R110, R30 (D27): S.unlocked gates no command and no field: with it set either way, a handler ends in a next state that
agrees on everything but that flag and the bytes of the frames it transmits. -/
def Obligations.UnlockedGatesNothing : Prop :=
  ∀ (i : Instr) (s t : State) (u : Bool), exec i s = .next t →
    ∃ t' : State, exec i { s with settings := { s.settings with unlocked := u } } = .next t' ∧
      t' = { t with
        settings := { t.settings with unlocked := t'.settings.unlocked }
        trace := t'.trace } ∧
      t'.trace.map Event.withoutBytes = t.trace.map Event.withoutBytes

/-! ## One step of the framing state machine -/

/-- R76, R105 (D11): Store writes the byte at `idx` and advances it, or, with the buffer full, records RxOverflow and drop
code 6 and resets the parser; every other byte of the buffer is unchanged either way. -/
def Obligations.StoreWritesOrOverflows : Prop :=
  ∀ (b : Byte) (s : State),
    (s.idx.toNat < s.params.rxCap →
      ∃ buf : Memory, s.store b = (true, { s with rxbuf := buf, idx := s.idx + 1 }) ∧
        ∀ a, buf.read a = if a = s.idx.toNat then b else s.rxbuf.read a) ∧
    (s.params.rxCap ≤ s.idx.toNat →
      s.store b = (false, { s with
        faults := { s.faults with rxOverflow := true }, drops := s.drops ++ [.rxOverflow], fsm := .awaitSync, idx := 0 }))

/-- R77, R100: in AwaitSync, 0xAA is stored at offset 0 where the buffer has room, and the marker is awaited; any other byte is
discarded, with drop code 1, and the block stays in AwaitSync with idx 0. -/
def Obligations.AwaitSyncStep : Prop :=
  ∀ (s : State) (b : Byte) (rest : List EnvEvent), s.Inv → s.fsm = .awaitSync → s.input = .byte b :: rest →
    (b = 0xAA → 0 < s.params.rxCap →
      ∃ buf : Memory, step s = .next { s with input := rest, rxbuf := buf, idx := 1, fsm := .awaitMarker } ∧
        ∀ a, buf.read a = if a = 0 then 0xAA else s.rxbuf.read a) ∧
    (b ≠ 0xAA → step s = .next { s with
      input := rest, idx := 0, fsm := .awaitSync, drops := s.drops ++ [.desyncSync] })

/-- R78, R101 (not re-examined: D14): in AwaitMarker, 0x55 is stored at offset 1 where the buffer has room, and the command is
awaited; any other byte, 0xAA too, is discarded with drop code 2 and the parser resets. -/
def Obligations.AwaitMarkerStep : Prop :=
  ∀ (s : State) (b : Byte) (rest : List EnvEvent), s.Inv → s.fsm = .awaitMarker → s.input = .byte b :: rest →
    (b = 0x55 → 1 < s.params.rxCap →
      ∃ buf : Memory, step s = .next { s with input := rest, rxbuf := buf, idx := 2, fsm := .awaitCommand } ∧
        ∀ a, buf.read a = if a = 1 then 0x55 else s.rxbuf.read a) ∧
    (b ≠ 0x55 → step s = .next { s with
      input := rest, idx := 0, fsm := .awaitSync, drops := s.drops ++ [.desyncMarker] })

/-- R79: in AwaitCommand, with room in the buffer, any byte is stored at offset 2 and the length is awaited. -/
def Obligations.AwaitCommandStep : Prop :=
  ∀ (s : State) (b : Byte) (rest : List EnvEvent), s.Inv → s.fsm = .awaitCommand → s.input = .byte b :: rest →
    2 < s.params.rxCap →
    ∃ buf : Memory, step s = .next { s with input := rest, rxbuf := buf, idx := 3, fsm := .awaitLength } ∧
      ∀ a, buf.read a = if a = 2 then b else s.rxbuf.read a

/-- R80, C8 (expected unwritten for length 0: D29): in AwaitLength, with room in the buffer, the byte is stored at offset 3;
zero awaits the checksum, and a nonzero length awaits that many payload bytes with expected = 4 + b. -/
def Obligations.AwaitLengthStep : Prop :=
  ∀ (s : State) (b : Byte) (rest : List EnvEvent), s.Inv → s.fsm = .awaitLength → s.input = .byte b :: rest →
    3 < s.params.rxCap →
    ∃ buf : Memory,
      (∀ a, buf.read a = if a = 3 then b else s.rxbuf.read a) ∧
      (b = 0 → step s = .next { s with input := rest, rxbuf := buf, idx := 4, fsm := .awaitChecksum }) ∧
      (b ≠ 0 → step s = .next { s with
        input := rest, rxbuf := buf, idx := 4, fsm := .awaitPayload, expected := BitVec.ofNat 16 (4 + b.toNat) })

/-- R81, R76, C1: in AwaitPayload with room in the buffer, any byte, 0xAA too, is stored at `idx`, and the checksum is
awaited exactly when the index reaches `expected`. With the buffer full (a smaller RX_CAP: D11) the byte is discarded with
RxOverflow and drop code 6, and the parser resets (R105). -/
def Obligations.AwaitPayloadStep : Prop :=
  ∀ (s : State) (b : Byte) (rest : List EnvEvent), s.Inv → s.fsm = .awaitPayload → s.input = .byte b :: rest →
    (s.idx.toNat < s.params.rxCap →
      ∃ buf : Memory,
        step s = .next { s with
          input := rest, rxbuf := buf, idx := s.idx + 1
          fsm := if s.idx.toNat + 1 = s.expected.toNat then .awaitChecksum else .awaitPayload } ∧
        ∀ a, buf.read a = if a = s.idx.toNat then b else s.rxbuf.read a) ∧
    (s.params.rxCap ≤ s.idx.toNat →
      step s = .next { s with
        input := rest, fsm := .awaitSync, idx := 0, drops := s.drops ++ [.rxOverflow]
        faults := { s.faults with rxOverflow := true } })

/-- R76, R83, R105 (D11; after a failed store the reset is the last word: log 12): in every storing state, header states
too, a byte that finds the buffer full is discarded with RxOverflow and drop code 6, the parser resets, and nothing else
changes. -/
def Obligations.FullBufferResetsParser : Prop :=
  ∀ (s : State) (b : Byte) (rest : List EnvEvent), s.input = .byte b :: rest → s.params.rxCap ≤ s.idx.toNat →
    s.fsm ≠ .awaitChecksum → (s.fsm = .awaitSync → b = 0xAA) → (s.fsm = .awaitMarker → b = 0x55) →
    step s = .next { s with
      input := rest, fsm := .awaitSync, idx := 0, drops := s.drops ++ [.rxOverflow]
      faults := { s.faults with rxOverflow := true } }

/-- R102, R82 (the checksum byte is not stored: D13): in AwaitChecksum, a byte that differs from the CRC of the body discards
the frame: drop code 3, the parser reset, no event, nothing else changed, the receive buffer included. -/
def Obligations.ChecksumMismatchDropsFrame : Prop :=
  ∀ (s : State) (b : Byte) (rest : List EnvEvent) (body : List Byte), s.Inv → s.fsm = .awaitChecksum →
    s.input = .byte b :: rest → body.length + 2 = s.idx.toNat → (∀ k < body.length, body[k]? = some (s.rxbuf.read (2 + k))) →
    b ≠ crc8 body →
    step s = .next { s with input := rest, fsm := .awaitSync, idx := 0, drops := s.drops ++ [.crcMismatch] }

/-- R82, R87 (indicator events D15): a step runs the decoded instruction. In AwaitChecksum, when the stored bytes from
offset 2 are CMD, LEN and payload, their CRC is the input byte, and CMD decodes to i, the step is `exec i` between the two
indicator events, and then the parser reset. -/
def Obligations.StepRunsDecodedInstruction : Prop :=
  ∀ (s : State) (b cmd len : Byte) (payload : List Byte) (rest : List EnvEvent) (i : Instr), s.Inv →
    s.fsm = .awaitChecksum → s.input = .byte b :: rest →
    s.idx.toNat = 4 + payload.length → s.rxbuf.read 2 = cmd → s.rxbuf.read 3 = len →
    (∀ k < payload.length, payload[k]? = some (s.rxbuf.read (4 + k))) →
    b = crc8 (cmd :: len :: payload) → decodeBody s.params.cmdId cmd payload = some i →
    step s =
      match exec i { s with input := rest, trace := s.trace ++ [.setIndicator true] } with
      | .next t => .next { t with trace := t.trace ++ [.setIndicator false], fsm := .awaitSync, idx := 0 }
      | .fault r => .fault r
      | .refused r => .refused r

/-- R89, R103 (indicator events D15): a checksum-valid frame whose id is unmapped is a no-op: the two indicator events, drop
code 4 and the parser reset, and nothing else. -/
def Obligations.UnmappedCommandIsNoOp : Prop :=
  ∀ (s : State) (b cmd len : Byte) (payload : List Byte) (rest : List EnvEvent), s.Inv →
    s.fsm = .awaitChecksum → s.input = .byte b :: rest →
    s.idx.toNat = 4 + payload.length → s.rxbuf.read 2 = cmd → s.rxbuf.read 3 = len →
    (∀ k < payload.length, payload[k]? = some (s.rxbuf.read (4 + k))) →
    b = crc8 (cmd :: len :: payload) → decodeBody s.params.cmdId cmd payload = none →
    step s = .next { s with
      input := rest, fsm := .awaitSync, idx := 0, drops := s.drops ++ [.unknownCommand]
      trace := s.trace ++ [.setIndicator true, .setIndicator false] }

/-- R32, R126 (one field per write: log 15; idle without input: log 1): a settings write of the environment is a step of its
own that changes only that field of S; with nothing pending the block holds its state. -/
def Obligations.EnvironmentMovesBetweenSteps : Prop :=
  (∀ (s : State) (w : SettingsWrite) (rest : List EnvEvent), s.input = .write w :: rest →
    step s = .next { s with
      input := rest
      settings := match w with
        | .channel v => { s.settings with channel := v }
        | .powerIndex v => { s.settings with powerIndex := v }
        | .rawPowerDbm v => { s.settings with rawPowerDbm := v }
        | .frequencyMhz v => { s.settings with frequencyMhz := v }
        | .freqIndep v => { s.settings with freqIndep := v }
        | .pitInRange v => { s.settings with pitInRange := v }
        | .pitOutRange v => { s.settings with pitOutRange := v }
        | .unlocked v => { s.settings with unlocked := v }
        | .dirty v => { s.settings with dirty := v } }) ∧
  (∀ s : State, s.input = [] → step s = .next s)

/-! ## Reset -/

/-- R121, R122, for every value of what the spec leaves open (R14, R19, R20): the state after power-on. -/
def Obligations.PowerOnState : Prop :=
  ∀ (p : Params) (boot : BootValues),
    (State.powerOn p boot).fsm = .awaitSync ∧ (State.powerOn p boot).idx = 0 ∧
    (State.powerOn p boot).expected = boot.expected ∧
    (∀ a, (State.powerOn p boot).rxbuf.read a = boot.rxbuf.read a) ∧
    (State.powerOn p boot).pitMode = boot.pitMode ∧ (State.powerOn p boot).faults = FaultRecord.empty ∧
    (State.powerOn p boot).settings = { boot.settings with dirty := false } ∧
    (State.powerOn p boot).params = p ∧ (State.powerOn p boot).trace = []

/-- R85, R121: every block with legal parameters starts in the invariants of R85, whatever the open values of R14, R19 and
R20; so does State.reset. -/
def Obligations.PowerOnMeetsInvariants : Prop :=
  (∀ (p : Params) (boot : BootValues), p.Legal → boot.Legal p → (State.powerOn p boot).Inv) ∧ State.reset.Inv

/-- R10, R93, R46: the default table holds the three entries the document pins, the last index has an entry, and the table
is indexed by band * 8 + channel: band 5, channel 0 is entry 40. (Entry 47 is general knowledge, G2, log 9.) -/
def Obligations.PinnedTableEntries : Prop :=
  freqForChannel Config.freqTableDefault 0 = 5865 ∧ freqForChannel Config.freqTableDefault 1 = 5845 ∧
  freqForChannel Config.freqTableDefault 40 = 5362 ∧ freqForChannel Config.freqTableDefault 47 = 5621 ∧
  Params.default.Legal

/-! ## Whole-machine rules -/

/-- R85, R18: the invariants hold after every step from every state in which they hold. -/
def Obligations.StepKeepsInvariants : Prop :=
  ∀ s t : State, s.Inv → step s = .next t → t.Inv

/-- R75, R84, R128: no stuck state: from every state that meets the invariants, the next step ends in a next state, whatever
is pending. -/
def Obligations.NoStuckState : Prop :=
  ∀ s : State, s.Inv → ∃ t : State, step s = .next t

/-- R129: a run of n pending moves ends after exactly n steps, with the input consumed. -/
def Obligations.RunEndsAfterItsInput : Prop :=
  ∀ s : State, s.Inv → ∃ t : State, runSteps s.input.length s = .next t ∧ t.input = [] ∧ t.Inv

/-- R83: the parser reset writes fsm and idx and nothing else, and whenever a byte's step ends in AwaitSync, idx is 0. -/
def Obligations.ReturnToSyncResetsIndex : Prop :=
  (∀ s : State, s.parserReset = { s with fsm := .awaitSync, idx := 0 }) ∧
  (∀ (s t : State) (b : Byte) (rest : List EnvEvent), s.input = .byte b :: rest → step s = .next t →
    t.fsm = .awaitSync → t.idx = 0)

/-- R43, R70, R71, R74: in the output trace every TxBytes carries a response frame (it decodes whole, with framing flag 0,
D3) and is followed at once by its Flush; every step keeps this. -/
def Obligations.StepKeepsTraceWellFormed : Prop :=
  ∀ s t : State, s.params.cmdId.Distinct → traceWellFormed s.params.cmdId s.trace = true → step s = .next t →
    traceWellFormed t.params.cmdId t.trace = true

/-- R42, R82, R32: the trace only grows; and a step that does not find a checksum awaited emits nothing and leaves pit mode
as it was, and S too unless the environment writes it. -/
def Obligations.OnlyChecksumStepsAct : Prop :=
  ∀ s t : State, step s = .next t →
    s.trace <+: t.trace ∧
    (s.fsm ≠ .awaitChecksum → t.trace = s.trace ∧ t.pitMode = s.pitMode ∧
      ((∀ w rest, s.input ≠ .write w :: rest) → t.settings = s.settings))

/-- R21, R98: no step makes pit mode true, and a handler changes it only as SET_MODE with request bit 2 set, to false. -/
def Obligations.PitModeIsOnlyEverCleared : Prop :=
  (∀ s t : State, step s = .next t → t.pitMode = true → s.pitMode = true) ∧
  (∀ (i : Instr) (s t : State), exec i s = .next t → t.pitMode ≠ s.pitMode →
    t.pitMode = false ∧ ∃ (flag : Bool) (payload : List Byte), i = .setMode flag payload ∧
      (requestByte payload 0 (Config.drawU8 s.draws)).getLsbD 2 = true)

/-- R24 (D7): only the environment writes S.power_index. -/
def Obligations.PowerIndexOnlyFromEnvironment : Prop :=
  ∀ s t : State, step s = .next t → t.settings.powerIndex ≠ s.settings.powerIndex →
    ∃ (v : Byte) (rest : List EnvEvent), s.input = .write (.powerIndex v) :: rest ∧ t.settings.powerIndex = v

/-- R31 (D20): the block only sets S.dirty; it is cleared only by the environment. -/
def Obligations.DirtyIsClearedOnlyByEnvironment : Prop :=
  ∀ s t : State, step s = .next t → s.settings.dirty = true → t.settings.dirty = false →
    ∃ rest : List EnvEvent, s.input = .write (.dirty false) :: rest

/-- R23, R25, R26: what the block writes into S is in range: a channel below 48, a power below 128, a frequency that is
below 0x4000 or an entry of the table. -/
def Obligations.BlockWritesSettingsInRange : Prop :=
  ∀ s t : State, step s = .next t → (∀ w rest, s.input ≠ .write w :: rest) →
    (t.settings.channel = s.settings.channel ∨ t.settings.channel.toNat < 48) ∧
    (t.settings.rawPowerDbm = s.settings.rawPowerDbm ∨ t.settings.rawPowerDbm.toNat < 128) ∧
    (t.settings.frequencyMhz = s.settings.frequencyMhz ∨ t.settings.frequencyMhz.toNat < 0x4000 ∨
      ∃ ch : Fin 48, t.settings.frequencyMhz = s.params.freqTable[ch])

/-- R22, R104, R105, R106 (D9, D11, D33): the fault record is sticky, and each kind is added only where its rule says.
InvalidChannel: by a handler only as SET_CHANNEL with a byte of 48 or more, and by a step only where its byte is the
checksum of a stored frame that decodes to such a SET_CHANNEL. RxOverflow: only by a step that stores its byte (0xAA in
AwaitSync, 0x55 in AwaitMarker, any byte until the checksum is awaited) and finds the buffer full. -/
def Obligations.FaultsAreSticky : Prop :=
  (∀ (s t : State) (k : FaultKind), step s = .next t → s.faults.has k = true → t.faults.has k = true) ∧
  (∀ (i : Instr) (s t : State), exec i s = .next t →
    t.faults.invalidChannel = true → s.faults.invalidChannel = false → rejectedChannel i s = true) ∧
  (∀ s t : State, step s = .next t → t.faults.invalidChannel = true → s.faults.invalidChannel = false →
    s.fsm = .awaitChecksum ∧ ∃ (rest : List EnvEvent) (cmd len : Byte) (payload : List Byte) (i : Instr),
      s.input = .byte (crc8 s.rxBody) :: rest ∧ s.rxBody = cmd :: len :: payload ∧
      decodeBody s.params.cmdId cmd payload = some i ∧ rejectedChannel i s = true) ∧
  (∀ s t : State, step s = .next t → t.faults.rxOverflow = true → s.faults.rxOverflow = false →
    s.params.rxCap ≤ s.idx.toNat ∧ s.fsm ≠ .awaitChecksum ∧ ∃ (b : Byte) (rest : List EnvEvent),
      s.input = .byte b :: rest ∧ (s.fsm = .awaitSync → b = 0xAA) ∧ (s.fsm = .awaitMarker → b = 0x55))

/-- R76, R105, R12 (default RX_CAP: D11): with a receive buffer of at least 259 bytes, RxOverflow cannot occur. -/
def Obligations.DefaultBufferNeverOverflows : Prop :=
  ∀ s t : State, s.Inv → 259 ≤ s.params.rxCap → step s = .next t → t.faults.rxOverflow = s.faults.rxOverflow

/-- R107: at most one drop code applies to a step. -/
def Obligations.AtMostOneDropPerStep : Prop :=
  ∀ s t : State, step s = .next t → t.drops = s.drops ∨ ∃ d : DropCode, t.drops = s.drops ++ [d]

/-- R107, R96: the checksum is tested before the handler's own check: a step that is not a checksum match records no
InvalidChannel and keeps drop codes 4 and 5 out. -/
def Obligations.ChecksumTestedFirst : Prop :=
  ∀ (s t : State) (b : Byte) (rest : List EnvEvent), s.input = .byte b :: rest → b ≠ crc8 s.rxBody → step s = .next t →
    t.faults.invalidChannel = s.faults.invalidChannel ∧
    t.drops ≠ s.drops ++ [.unknownCommand] ∧ t.drops ≠ s.drops ++ [.invalidChannel]

/-- R33, R44: no step changes FREQ_TABLE, the command ids or the capacities. -/
def Obligations.ParametersNeverChange : Prop :=
  ∀ s t : State, step s = .next t → t.params = s.params

/-- R19, R20, R73: what R19 and R20 call unobservable is: from two states that differ only in `expected` outside
AwaitPayload and in the receive buffer at or beyond `idx`, steps give the same outputs and states that differ only so. -/
def Obligations.StaleBufferIsUnobservable : Prop :=
  ∀ s s' t : State, SameObservable s s' → step s = .next t →
    ∃ t' : State, step s' = .next t' ∧ SameObservable t t' ∧ t.observe = t'.observe

/-! ## Whole frames -/

/-- R48, R49, R74, R75 to R82: the state machine refines the decoder. From AwaitSync, the 5 + LEN bytes of a well-formed
instruction's frame take 5 + LEN steps, of which the last runs exactly that instruction between the indicator events (D15), with
the frame's bytes but the checksum (D13) in the receive buffer and every other byte of it as before; and the block is in
AwaitSync again with the bytes after the frame still pending. -/
def Obligations.WholeFrameRunsItsInstruction : Prop :=
  ∀ (s : State) (i : Instr) (rest : List EnvEvent), s.Inv → s.fsm = .awaitSync → 259 ≤ s.params.rxCap → i.WellFormed →
    s.input = (encode s.params.cmdId i).map EnvEvent.byte ++ rest →
    ∃ (buf : Memory) (t : State),
      (∀ a, some (buf.read a) =
        if a < 4 + i.payload.length then (encode s.params.cmdId i)[a]? else some (s.rxbuf.read a)) ∧
      exec i { s with
        fsm := .awaitChecksum, idx := BitVec.ofNat 16 (4 + i.payload.length), rxbuf := buf
        expected := if i.payload = [] then s.expected else BitVec.ofNat 16 (4 + i.payload.length)
        input := rest, trace := s.trace ++ [.setIndicator true] } = .next t ∧
      runSteps (5 + i.payload.length) s =
        .next { t with trace := t.trace ++ [.setIndicator false], fsm := .awaitSync, idx := 0 }

/-- R84, R81, R124: a partial frame leaves AwaitPayload only after exactly `expected - idx` more bytes, whatever their
values: with fewer it still waits, with that many it awaits the checksum; no event meanwhile. -/
def Obligations.PayloadTakesExactlyItsLength : Prop :=
  ∀ (s : State) (bytes : List Byte) (rest : List EnvEvent), s.Inv → s.fsm = .awaitPayload → 259 ≤ s.params.rxCap →
    s.idx.toNat + bytes.length ≤ s.expected.toNat → s.input = bytes.map EnvEvent.byte ++ rest →
    ∃ t : State, runSteps bytes.length s = .next t ∧ t.input = rest ∧ t.trace = s.trace ∧ t.settings = s.settings ∧
      t.idx.toNat = s.idx.toNat + bytes.length ∧
      t.fsm = if s.idx.toNat + bytes.length = s.expected.toNat then .awaitChecksum else .awaitPayload

/-- R86 with condition (i) met by a prefix without 0xAA (C2): noise and then the frame of a well-formed instruction give
exactly one response, and the noise none; a SET_CHANNEL is taken with a channel byte below 48 (R91, D9). -/
def Obligations.NoiseThenFrameAnswersOnce : Prop :=
  ∀ (s : State) (noise : List Byte) (i : Instr), s.Inv → s.fsm = .awaitSync → 259 ≤ s.params.rxCap → i.WellFormed →
    (∀ b ∈ noise, b ≠ 0xAA) →
    (∀ flag payload, i = .setChannel flag payload → ∃ ch more, payload = ch :: more ∧ ch.toNat < 48) →
    s.input = (noise ++ encode s.params.cmdId i).map EnvEvent.byte →
    ∃ (mid t : State) (frame : List Byte),
      runSteps noise.length s = .next mid ∧ mid.trace = s.trace ∧ mid.settings = s.settings ∧
      runSteps s.input.length s = .next t ∧ responsesOf t.trace = responsesOf s.trace ++ [frame] ∧ t.fsm = .awaitSync

/-- R68 (c), R82, R102: a frame of which one payload byte (so also one payload bit) differs from the frame that was signed
is suppressed: no event, no change of S, pit mode or FAULTS, drop code 3. -/
def Obligations.CorruptedPayloadIsSuppressed : Prop :=
  ∀ (s : State) (cmd b c : Byte) (before after : List Byte) (rest : List EnvEvent), s.Inv → s.fsm = .awaitSync →
    259 ≤ s.params.rxCap → before.length + 1 + after.length ≤ 255 → b ≠ c →
    s.input = (frameWithCrc cmd (before ++ c :: after)
      (frameCrc cmd (lenByte (before ++ b :: after)) (before ++ b :: after))).map EnvEvent.byte ++ rest →
    ∃ t : State, runSteps (5 + (before.length + 1 + after.length)) s = .next t ∧
      t.trace = s.trace ∧ t.settings = s.settings ∧ t.pitMode = s.pitMode ∧ t.faults = s.faults ∧
      t.drops = s.drops ++ [.crcMismatch] ∧ t.fsm = .awaitSync ∧ t.idx = 0 ∧ t.input = rest

/-- R74, R125: a looped-back response is a request of the same command: the frame a handler transmits decodes whole, under
distinct ids, as that handler's command, with framing flag 0 (D3). -/
def Obligations.ResponseDecodesAsItsCommand : Prop :=
  ∀ (i : Instr) (s t : State) (acts : List Event) (frame : List Byte), s.params.cmdId.Distinct → exec i s = .next t →
    t.trace = s.trace ++ acts ++ [.txBytes frame, .flush] →
    ∃ j : Instr, decode s.params.cmdId frame = .instr j [] ∧ j.flag = false ∧
      j.cmdId s.params.cmdId = i.cmdId s.params.cmdId

/-- R124: 256 bytes of 0x00 return the parser to AwaitSync from every state that meets the invariants. -/
def Obligations.ZeroBytesReturnToSync : Prop :=
  ∀ (s : State) (rest : List EnvEvent), s.Inv → s.input = List.replicate 256 (.byte 0) ++ rest →
    ∃ t : State, runSteps 256 s = .next t ∧ t.fsm = .awaitSync ∧ t.idx = 0 ∧ t.input = rest
end

