-- ==== Sys2Proof/Laws/Crc8.lean ====
section
/-! SUPPORT. The small lemmas of the CRC-8 unit. -/

namespace Sys2Proof.Machine

@[simp] theorem crcFrom_nil (acc : Byte) : crcFrom acc [] = acc := rfl

@[simp] theorem crcFrom_cons (acc b : Byte) (bs : List Byte) : crcFrom acc (b :: bs) = crcFrom (crcByte acc b) bs := rfl

theorem crcFrom_append (acc : Byte) (l m : List Byte) : crcFrom acc (l ++ m) = crcFrom (crcFrom acc l) m := by
  induction l generalizing acc with
  | nil => rfl
  | cons b l ih => exact ih _

/-- One more byte: XOR into the accumulator, then eight rounds (R65). -/
theorem crc8_concat (m : List Byte) (b : Byte) : crc8 (m ++ [b]) = crcByte (crc8 m) b := crcFrom_append _ _ _

end Sys2Proof.Machine
end

