-- ==== Sys2Proof/Laws/State.lean ====
section
/-! SUPPORT. One lemma per field per update of the state, each true by unfolding, so that no later proof unfolds a record
update. -/

namespace Sys2Proof.Machine

@[simp] theorem State.emit_params (e : Event) (s : State) : (s.emit e).params = s.params := rfl
@[simp] theorem State.emit_fsm (e : Event) (s : State) : (s.emit e).fsm = s.fsm := rfl
@[simp] theorem State.emit_idx (e : Event) (s : State) : (s.emit e).idx = s.idx := rfl
@[simp] theorem State.emit_expected (e : Event) (s : State) : (s.emit e).expected = s.expected := rfl
@[simp] theorem State.emit_rxbuf (e : Event) (s : State) : (s.emit e).rxbuf = s.rxbuf := rfl
@[simp] theorem State.emit_pitMode (e : Event) (s : State) : (s.emit e).pitMode = s.pitMode := rfl
@[simp] theorem State.emit_settings (e : Event) (s : State) : (s.emit e).settings = s.settings := rfl
@[simp] theorem State.emit_faults (e : Event) (s : State) : (s.emit e).faults = s.faults := rfl
@[simp] theorem State.emit_input (e : Event) (s : State) : (s.emit e).input = s.input := rfl
@[simp] theorem State.emit_trace (e : Event) (s : State) : (s.emit e).trace = s.trace ++ [e] := rfl
@[simp] theorem State.emit_drops (e : Event) (s : State) : (s.emit e).drops = s.drops := rfl
@[simp] theorem State.emit_draws (e : Event) (s : State) : (s.emit e).draws = s.draws := rfl

@[simp] theorem State.noteDrop_params (d : DropCode) (s : State) : (s.noteDrop d).params = s.params := rfl
@[simp] theorem State.noteDrop_fsm (d : DropCode) (s : State) : (s.noteDrop d).fsm = s.fsm := rfl
@[simp] theorem State.noteDrop_idx (d : DropCode) (s : State) : (s.noteDrop d).idx = s.idx := rfl
@[simp] theorem State.noteDrop_expected (d : DropCode) (s : State) : (s.noteDrop d).expected = s.expected := rfl
@[simp] theorem State.noteDrop_rxbuf (d : DropCode) (s : State) : (s.noteDrop d).rxbuf = s.rxbuf := rfl
@[simp] theorem State.noteDrop_pitMode (d : DropCode) (s : State) : (s.noteDrop d).pitMode = s.pitMode := rfl
@[simp] theorem State.noteDrop_settings (d : DropCode) (s : State) : (s.noteDrop d).settings = s.settings := rfl
@[simp] theorem State.noteDrop_faults (d : DropCode) (s : State) : (s.noteDrop d).faults = s.faults := rfl
@[simp] theorem State.noteDrop_input (d : DropCode) (s : State) : (s.noteDrop d).input = s.input := rfl
@[simp] theorem State.noteDrop_trace (d : DropCode) (s : State) : (s.noteDrop d).trace = s.trace := rfl
@[simp] theorem State.noteDrop_drops (d : DropCode) (s : State) : (s.noteDrop d).drops = s.drops ++ [d] := rfl
@[simp] theorem State.noteDrop_draws (d : DropCode) (s : State) : (s.noteDrop d).draws = s.draws := rfl

@[simp] theorem State.raiseFault_params (k : FaultKind) (s : State) : (s.raiseFault k).params = s.params := rfl
@[simp] theorem State.raiseFault_fsm (k : FaultKind) (s : State) : (s.raiseFault k).fsm = s.fsm := rfl
@[simp] theorem State.raiseFault_idx (k : FaultKind) (s : State) : (s.raiseFault k).idx = s.idx := rfl
@[simp] theorem State.raiseFault_expected (k : FaultKind) (s : State) : (s.raiseFault k).expected = s.expected := rfl
@[simp] theorem State.raiseFault_rxbuf (k : FaultKind) (s : State) : (s.raiseFault k).rxbuf = s.rxbuf := rfl
@[simp] theorem State.raiseFault_pitMode (k : FaultKind) (s : State) : (s.raiseFault k).pitMode = s.pitMode := rfl
@[simp] theorem State.raiseFault_settings (k : FaultKind) (s : State) : (s.raiseFault k).settings = s.settings := rfl
@[simp] theorem State.raiseFault_faults (k : FaultKind) (s : State) : (s.raiseFault k).faults = s.faults.add k := rfl
@[simp] theorem State.raiseFault_input (k : FaultKind) (s : State) : (s.raiseFault k).input = s.input := rfl
@[simp] theorem State.raiseFault_trace (k : FaultKind) (s : State) : (s.raiseFault k).trace = s.trace := rfl
@[simp] theorem State.raiseFault_drops (k : FaultKind) (s : State) : (s.raiseFault k).drops = s.drops := rfl
@[simp] theorem State.raiseFault_draws (k : FaultKind) (s : State) : (s.raiseFault k).draws = s.draws := rfl

@[simp] theorem State.parserReset_params (s : State) : (s.parserReset).params = s.params := rfl
@[simp] theorem State.parserReset_fsm (s : State) : (s.parserReset).fsm = .awaitSync := rfl
@[simp] theorem State.parserReset_idx (s : State) : (s.parserReset).idx = 0 := rfl
@[simp] theorem State.parserReset_expected (s : State) : (s.parserReset).expected = s.expected := rfl
@[simp] theorem State.parserReset_rxbuf (s : State) : (s.parserReset).rxbuf = s.rxbuf := rfl
@[simp] theorem State.parserReset_pitMode (s : State) : (s.parserReset).pitMode = s.pitMode := rfl
@[simp] theorem State.parserReset_settings (s : State) : (s.parserReset).settings = s.settings := rfl
@[simp] theorem State.parserReset_faults (s : State) : (s.parserReset).faults = s.faults := rfl
@[simp] theorem State.parserReset_input (s : State) : (s.parserReset).input = s.input := rfl
@[simp] theorem State.parserReset_trace (s : State) : (s.parserReset).trace = s.trace := rfl
@[simp] theorem State.parserReset_drops (s : State) : (s.parserReset).drops = s.drops := rfl
@[simp] theorem State.parserReset_draws (s : State) : (s.parserReset).draws = s.draws := rfl

@[simp] theorem State.markDirty_params (s : State) : (s.markDirty).params = s.params := rfl
@[simp] theorem State.markDirty_fsm (s : State) : (s.markDirty).fsm = s.fsm := rfl
@[simp] theorem State.markDirty_idx (s : State) : (s.markDirty).idx = s.idx := rfl
@[simp] theorem State.markDirty_expected (s : State) : (s.markDirty).expected = s.expected := rfl
@[simp] theorem State.markDirty_rxbuf (s : State) : (s.markDirty).rxbuf = s.rxbuf := rfl
@[simp] theorem State.markDirty_pitMode (s : State) : (s.markDirty).pitMode = s.pitMode := rfl
@[simp] theorem State.markDirty_settings (s : State) : (s.markDirty).settings = { s.settings with dirty := true } := rfl
@[simp] theorem State.markDirty_faults (s : State) : (s.markDirty).faults = s.faults := rfl
@[simp] theorem State.markDirty_input (s : State) : (s.markDirty).input = s.input := rfl
@[simp] theorem State.markDirty_trace (s : State) : (s.markDirty).trace = s.trace ++ [.markDirty] := rfl
@[simp] theorem State.markDirty_drops (s : State) : (s.markDirty).drops = s.drops := rfl
@[simp] theorem State.markDirty_draws (s : State) : (s.markDirty).draws = s.draws := rfl

@[simp] theorem State.applyPower_params (p : Byte) (s : State) : (s.applyPower p).params = s.params := rfl
@[simp] theorem State.applyPower_fsm (p : Byte) (s : State) : (s.applyPower p).fsm = s.fsm := rfl
@[simp] theorem State.applyPower_idx (p : Byte) (s : State) : (s.applyPower p).idx = s.idx := rfl
@[simp] theorem State.applyPower_expected (p : Byte) (s : State) : (s.applyPower p).expected = s.expected := rfl
@[simp] theorem State.applyPower_rxbuf (p : Byte) (s : State) : (s.applyPower p).rxbuf = s.rxbuf := rfl
@[simp] theorem State.applyPower_pitMode (p : Byte) (s : State) : (s.applyPower p).pitMode = s.pitMode := rfl
@[simp] theorem State.applyPower_settings (p : Byte) (s : State) : (s.applyPower p).settings = { s.settings with rawPowerDbm := p, dirty := true } := rfl
@[simp] theorem State.applyPower_faults (p : Byte) (s : State) : (s.applyPower p).faults = s.faults := rfl
@[simp] theorem State.applyPower_input (p : Byte) (s : State) : (s.applyPower p).input = s.input := rfl
@[simp] theorem State.applyPower_trace (p : Byte) (s : State) : (s.applyPower p).trace = (s.trace ++ [.setPowerDbm p]) ++ [.markDirty] := rfl
@[simp] theorem State.applyPower_drops (p : Byte) (s : State) : (s.applyPower p).drops = s.drops := rfl
@[simp] theorem State.applyPower_draws (p : Byte) (s : State) : (s.applyPower p).draws = s.draws := rfl

@[simp] theorem onNext_next (f : State → State) (s : State) : onNext f (.next s) = .next (f s) := rfl
@[simp] theorem onNext_fault (f : State → State) (r : Fault) : onNext f (.fault r) = .fault r := rfl
@[simp] theorem onNext_refused (f : State → State) (r : Refusal) : onNext f (.refused r) = .refused r := rfl

/-- `onNext` ends in a next state exactly when its argument does. -/
theorem onNext_eq_next {f : State → State} {o : Host.Outcome State Fault Refusal} {t : State} :
    onNext f o = .next t ↔ ∃ u, o = .next u ∧ f u = t := by
  cases o <;> simp

end Sys2Proof.Machine
end

