-- ==== Sys2Proof/Laws/Memory.lean ====
section
/-! SUPPORT. The laws of the receive buffer: read after write, the canonical form is kept by every memory operation, and
what a range read gives. -/

namespace Sys2Proof.Machine

/-- A read after putting a cell. -/
theorem Memory.read_put (m : Memory) (a b : Nat) (v : Byte) :
    (m.put a v).read b = if b = a then v else m.read b := by
  induction m with
  | nil => by_cases h : b = a <;> simp [Memory.put, Memory.read, h]
  | cons c m ih =>
    obtain ⟨k, w⟩ := c
    by_cases hak : a = k
    · subst hak
      by_cases h : b = a <;> simp [Memory.put, Memory.read, h]
    · by_cases hlt : a < k
      · by_cases h : b = a <;> simp [Memory.put, Memory.read, hak, hlt, h]
      · by_cases hbk : b = k
        · subst hbk
          simp [Memory.put, Memory.read, hak, hlt, Ne.symm hak]
        · simp [Memory.put, Memory.read, hak, hlt, hbk, ih]

/-- A read after removing a cell. -/
theorem Memory.read_filter (m : Memory) (a b : Nat) :
    Memory.read (m.filter (fun c => c.1 ≠ a)) b = if b = a then Memory.unlisted else m.read b := by
  induction m with
  | nil => by_cases h : b = a <;> simp [Memory.read, h]
  | cons c m ih =>
    obtain ⟨k, w⟩ := c
    by_cases hka : k = a
    · subst hka
      by_cases h : b = k <;> simp [Memory.read, h] at ih ⊢ <;> exact ih
    · by_cases hbk : b = k
      · subst hbk
        simp [Memory.read, hka]
      · simp [Memory.read, hka, hbk] at ih ⊢
        exact ih

/-- A read after a write: the value written, or what was there. -/
theorem Memory.read_write (m : Memory) (a b : Nat) (v : Byte) :
    (m.write a v).read b = if b = a then v else m.read b := by
  unfold Memory.write
  split
  · next h => rw [Memory.read_filter, h]
  · exact Memory.read_put m a b v

@[simp] theorem Memory.read_write_same (m : Memory) (a : Nat) (v : Byte) : (m.write a v).read a = v := by
  simp [Memory.read_write]

theorem Memory.read_write_other (m : Memory) {a b : Nat} (v : Byte) (h : b ≠ a) : (m.write a v).read b = m.read b := by
  simp [Memory.read_write, h]

/-- The cells after putting one are that one and cells that were there. -/
theorem Memory.mem_put {m : Memory} {a : Nat} {v : Byte} {c : Host.Cell} (h : c ∈ m.put a v) :
    c = (a, v) ∨ c ∈ m := by
  induction m with
  | nil => simpa [Memory.put] using h
  | cons d m ih =>
    obtain ⟨k, w⟩ := d
    unfold Memory.put at h
    split at h
    · rcases List.mem_cons.1 h with h | h
      · exact .inl h
      · exact .inr (List.mem_cons_of_mem _ h)
    · split at h
      · rcases List.mem_cons.1 h with h | h
        · exact .inl h
        · exact .inr h
      · rcases List.mem_cons.1 h with h | h
        · exact .inr (h ▸ List.mem_cons_self)
        · exact (ih h).imp_right (List.mem_cons_of_mem _)

/-- The cells of a written memory are the new one and cells that were there. -/
theorem Memory.mem_write {m : Memory} {a : Nat} {v : Byte} {c : Host.Cell} (h : c ∈ m.write a v) :
    c = (a, v) ∨ c ∈ m := by
  unfold Memory.write at h
  split at h
  · exact .inr (List.mem_filter.1 h).1
  · exact Memory.mem_put h

/-- Putting a cell keeps the addresses rising. -/
theorem Memory.put_rising {m : Memory} (a : Nat) (v : Byte) (h : m.Pairwise (fun p q => p.1 < q.1)) :
    (m.put a v).Pairwise (fun p q => p.1 < q.1) := by
  induction m with
  | nil => simp [Memory.put]
  | cons d m ih =>
    obtain ⟨k, w⟩ := d
    obtain ⟨hk, hm⟩ := List.pairwise_cons.1 h
    unfold Memory.put
    split
    · next hak => subst hak; exact List.pairwise_cons.2 ⟨hk, hm⟩
    · split
      · next hlt =>
        refine List.pairwise_cons.2 ⟨fun c hc => ?_, h⟩
        rcases List.mem_cons.1 hc with rfl | hc
        · exact hlt
        · exact Nat.lt_trans hlt (hk c hc)
      · next hne hlt =>
        refine List.pairwise_cons.2 ⟨fun c hc => ?_, ih hm⟩
        rcases Memory.mem_put hc with rfl | hc
        · show k < a
          omega
        · exact hk c hc

/-- A write keeps the canonical form. -/
theorem Memory.write_wf {m : Memory} (a : Nat) (v : Byte) (h : m.wf) : (m.write a v).wf := by
  unfold Memory.write
  split
  · exact ⟨h.1.filter _, fun c hc => h.2 c (List.mem_filter.1 hc).1⟩
  · next hv =>
    refine ⟨Memory.put_rising a v h.1, fun c hc => ?_⟩
    rcases Memory.mem_put hc with rfl | hc
    · exact hv
    · exact h.2 c hc

/-- Writing consecutive bytes keeps the canonical form. -/
theorem Memory.writeAll_wf {m : Memory} (a : Nat) (vs : List Byte) (h : m.wf) : (m.writeAll a vs).wf := by
  induction vs generalizing m a with
  | nil => exact h
  | cons v vs ih => exact ih (a + 1) (Memory.write_wf a v h)

/-- The receive buffer is in canonical form at reset. -/
theorem State.reset_rxbuf_wf : State.reset.rxbuf.wf := ⟨List.Pairwise.nil, by simp [State.reset, State.powerOn, BootValues.zero]⟩

@[simp] theorem Memory.length_readRange (m : Memory) (a n : Nat) : (m.readRange a n).length = n := by
  induction n generalizing a with
  | zero => rfl
  | succ n ih => simp [Memory.readRange, ih]

/-- A range read gives the bytes at its addresses. -/
theorem Memory.readRange_eq {m : Memory} {a n : Nat} {l : List Byte} :
    m.readRange a n = l ↔ l.length = n ∧ ∀ k < n, l[k]? = some (m.read (a + k)) := by
  induction n generalizing a l with
  | zero => cases l <;> simp [Memory.readRange]
  | succ n ih =>
    cases l with
    | nil => simp [Memory.readRange]
    | cons v l =>
      simp only [Memory.readRange, List.cons.injEq, ih, List.length_cons, Nat.add_right_cancel_iff]
      constructor
      · rintro ⟨rfl, hlen, hall⟩
        refine ⟨hlen, fun k hk => ?_⟩
        cases k with
        | zero => simp
        | succ k => simpa [Nat.add_assoc, Nat.add_comm 1] using hall k (by omega)
      · rintro ⟨hlen, hall⟩
        refine ⟨by simpa using (hall 0 (by omega)).symm, hlen, fun k hk => ?_⟩
        simpa [Nat.add_assoc, Nat.add_comm 1] using hall (k + 1) (by omega)

end Sys2Proof.Machine
end

