-- ==== Sys2Proof/Laws/Ops.lean ====
section
/-! SUPPORT. What each shared operation can do, said once. -/

namespace Sys2Proof.Machine

/-- Store with room (R76). -/
theorem State.store_of_lt {s : State} (b : Byte) (h : s.idx.toNat < s.params.rxCap) :
    s.store b = (true, { s with rxbuf := s.rxbuf.write s.idx.toNat b, idx := s.idx + 1 }) := by
  simp [State.store, Nat.not_le.2 h]

/-- Store with the buffer full (R76, R105). -/
theorem State.store_of_le {s : State} (b : Byte) (h : s.params.rxCap ≤ s.idx.toNat) :
    s.store b = (false, ((s.raiseFault .rxOverflow).noteDrop .rxOverflow).parserReset) := by
  simp [State.store, h]

/-- Store with room, and then `f`. -/
theorem State.storeThen_of_lt {s : State} (b : Byte) (f : State → State) (h : s.idx.toNat < s.params.rxCap) :
    s.storeThen b f = f { s with rxbuf := s.rxbuf.write s.idx.toNat b, idx := s.idx + 1 } := by
  simp [State.storeThen, State.store_of_lt b h]

/-- Store with the buffer full: the reset of R105 is the last word. -/
theorem State.storeThen_of_le {s : State} (b : Byte) (f : State → State) (h : s.params.rxCap ≤ s.idx.toNat) :
    s.storeThen b f = ((s.raiseFault .rxOverflow).noteDrop .rxOverflow).parserReset := by
  simp [State.storeThen, State.store_of_le b h]

/-- A request byte that is there is read without a draw (R90). -/
theorem State.reqByte_of_lt {payload : List Byte} {k : Nat} (s : State) (h : k < payload.length) :
    s.reqByte payload k = (payload[k], s) := by
  simp [State.reqByte, h]

/-- A missing request byte is a draw (R90). -/
theorem State.reqByte_of_le {payload : List Byte} {k : Nat} (s : State) (h : payload.length ≤ k) :
    s.reqByte payload k = (Config.drawU8 s.draws, { s with draws := s.draws + 1 }) := by
  simp [State.reqByte, State.drawU8, h]

/-- The operand fetch changes the draw counter only. -/
theorem State.reqByte_snd (payload : List Byte) (k : Nat) (s : State) :
    (s.reqByte payload k).2 = { s with draws := s.draws + if k < payload.length then 0 else 1 } := by
  by_cases h : k < payload.length
  · simp [State.reqByte_of_lt s h, h]
  · simp [State.reqByte_of_le s (Nat.not_lt.1 h), h]

theorem FaultRecord.has_add (k j : FaultKind) (f : FaultRecord) :
    (f.add k).has j = if j = k then true else f.has j := by
  cases k <;> cases j <;> rfl

end Sys2Proof.Machine
end

