-- ==== Sys2Proof/Laws/Codec.lean ====
section
/-! SUPPORT. What the codec's buffer operations give: writing a payload into a buffer, and the signed frame. -/

namespace Sys2Proof.Machine

/-- Writing bytes over the front of what follows a prefix replaces just that. -/
theorem txWriteAll_append (pre old vs tail : List Byte) (h : old.length = vs.length) :
    txWriteAll (pre ++ old ++ tail) pre.length vs = pre ++ vs ++ tail := by
  induction vs generalizing pre old with
  | nil => simp [txWriteAll, List.length_eq_zero_iff.1 h]
  | cons v vs ih =>
    cases old with
    | nil => simp at h
    | cons o old =>
      have := ih (pre ++ [v]) old (by simpa using h)
      simpa [txWriteAll, txWrite, List.set_append] using this

/-- The buffer of a response before it is signed: header, payload, and one byte for the checksum (R69, R71). -/
theorem responseTx_eq (id : CmdId) (payload : List Byte) (h : payload.length ≤ 255) :
    responseTx id payload =
      Config.sync :: Config.marker :: responseCmd id :: lenByte payload :: (payload ++ [0]) := by
  have hlen : (lenByte payload).toNat = payload.length := by
    simp only [lenByte, BitVec.toNat_ofNat]; omega
  have hb : (buildHeader (responseCmd id) (lenByte payload)).1 =
      [Config.sync, Config.marker, responseCmd id, lenByte payload] ++ List.replicate payload.length 0 ++ [0] := by
    simp only [buildHeader, freshTx, txWrite, hlen, List.append_assoc, ← List.replicate_succ']
    rw [show 5 + payload.length = payload.length + 1 + 1 + 1 + 1 + 1 by omega]
    rfl
  have := txWriteAll_append [Config.sync, Config.marker, responseCmd id, lenByte payload]
    (List.replicate payload.length 0) payload [0] (by simp)
  rw [responseTx, hb]
  simpa [buildHeader] using this

/-- Signing it gives the frame (R70). -/
theorem signTx_responseTx (id : CmdId) (payload : List Byte) (h : payload.length ≤ 255) :
    signTx (responseTx id payload) = frameBytes (responseCmd id) payload := by
  have hlen : (lenByte payload).toNat = payload.length := by
    simp only [lenByte, BitVec.toNat_ofNat]; omega
  rw [responseTx_eq id payload h]
  simp only [signTx, txWrite, hlen, crc8N]
  rw [show 4 + payload.length = payload.length + 1 + 1 + 1 + 1 by omega,
    show 2 + payload.length = payload.length + 1 + 1 by omega]
  simp [frameBytes, frameWithCrc, frameCrc]

end Sys2Proof.Machine
end

