-- ==== Sys2Proof/Laws/PerInstr.lean ====
section
/-! SUPPORT. The family FrameLength: one lemma per constructor of Instr (R49: a frame is 5 + LEN bytes long, and so 5 to
260 bytes; R48: its bytes 2 and 3 are CMD and LEN). -/

namespace Sys2Proof.Laws.FrameLength

/-- The frame of a well-formed instruction has 5 + LEN bytes, at most 260, and carries its command byte and LEN. -/
def Statement (i : Instr) : Prop :=
  i.WellFormed → ∀ ids : CmdIds,
    (encode ids i).length = 5 + i.payload.length ∧ (encode ids i).length ≤ 260 ∧
    (encode ids i)[2]? = some (cmdByte (i.cmdId ids) i.flag) ∧
    ((encode ids i)[3]?.map BitVec.toNat) = some i.payload.length

theorem of_payload (i : Instr) : Statement i := by
  intro h ids
  have h : i.payload.length ≤ 255 := h
  refine ⟨?_, ?_, rfl, ?_⟩
  · simp [encode, frameBytes, frameWithCrc]; omega
  · simp [encode, frameBytes, frameWithCrc]; omega
  · simp [encode, frameBytes, frameWithCrc, lenByte]; omega

theorem getSettings (flag : Bool) (payload : List Byte) : Statement (.getSettings flag payload) := of_payload _
theorem setPower (flag : Bool) (payload : List Byte) : Statement (.setPower flag payload) := of_payload _
theorem setChannel (flag : Bool) (payload : List Byte) : Statement (.setChannel flag payload) := of_payload _
theorem setFrequency (flag : Bool) (payload : List Byte) : Statement (.setFrequency flag payload) := of_payload _
theorem setMode (flag : Bool) (payload : List Byte) : Statement (.setMode flag payload) := of_payload _

end Sys2Proof.Laws.FrameLength
end

