-- ==== Sys2Proof/Laws/Step.lean ====
section
/-! SUPPORT. Inversion: everything a step, a checksum check, a dispatch or a response can do, said once. -/

namespace Sys2Proof.Machine

/-- Respond within the transmit bound (R72). -/
theorem respondIf_of_fits {go : Bool} {p : Params} {id : CmdId} {payload : List Byte} {s : State}
    (h : 5 + payload.length ≤ p.txCap) :
    respondIf go p id payload s = .next (if go then s.finalizeAndSend (responseTx id payload) else s) := by
  simp [respondIf, fitsTx, h]

/-- If Respond ends in a next state, the response was sent if there was one to send. -/
theorem respondIf_next {go : Bool} {p : Params} {id : CmdId} {payload : List Byte} {s t : State}
    (h : respondIf go p id payload s = .next t) :
    t = if go then s.finalizeAndSend (responseTx id payload) else s := by
  by_cases hf : 5 + payload.length ≤ p.txCap
  · rw [respondIf_of_fits hf] at h
    exact (Host.Outcome.next.inj h).symm
  · cases go <;> simp [respondIf, fitsTx, hf] at h
    exact h.symm

/-- Transmitting a response changes the trace only (R70). -/
theorem State.finalizeAndSend_responseTx (s : State) (id : CmdId) (payload : List Byte) (h : payload.length ≤ 255) :
    s.finalizeAndSend (responseTx id payload) =
      { s with trace := s.trace ++ [.txBytes (frameBytes (responseCmd id) payload), .flush] } := by
  simp [State.finalizeAndSend, signTx_responseTx id payload h, State.emit]

/-- Everything a step that ends in a next state can have done. -/
theorem step_next_cases {s t : State} (h : step s = .next t) :
    (s.input = [] ∧ t = s) ∨
    (∃ w rest, s.input = .write w :: rest ∧ t = { s with input := rest, settings := envWriteSettings w s.settings }) ∨
    (∃ b rest, s.input = .byte b :: rest ∧ stepByte b { s with input := rest } = .next t) := by
  unfold step move at h
  split at h
  · next hi => exact .inl ⟨hi, (Host.Outcome.next.inj h).symm⟩
  · next w rest hi => exact .inr (.inl ⟨w, rest, hi, (Host.Outcome.next.inj h).symm⟩)
  · next b rest hi => exact .inr (.inr ⟨b, rest, hi, h⟩)

/-- A step on a delivered byte is the block's step on it (R75). -/
theorem step_of_byte {s : State} {b : Byte} {rest : List EnvEvent} (h : s.input = .byte b :: rest) :
    step s = stepByte b { s with input := rest } := by
  simp [step, move, h]

/-- R75: the state selects the rule. -/
theorem stepByte_next_cases {b : Byte} {s t : State} (h : stepByte b s = .next t) :
    (s.fsm = .awaitSync ∧ t = onSync b s) ∨ (s.fsm = .awaitMarker ∧ t = onMarker b s) ∨
    (s.fsm = .awaitCommand ∧ t = onCommand b s) ∨ (s.fsm = .awaitLength ∧ t = onLength b s) ∨
    (s.fsm = .awaitPayload ∧ t = onPayload b s) ∨ (s.fsm = .awaitChecksum ∧ onChecksum b s = .next t) := by
  unfold stepByte at h
  cases hf : s.fsm <;> simp only [hf] at h <;> simp_all

theorem stepByte_awaitSync {b : Byte} {s : State} (h : s.fsm = .awaitSync) : stepByte b s = .next (onSync b s) := by
  simp [stepByte, h]

theorem stepByte_awaitMarker {b : Byte} {s : State} (h : s.fsm = .awaitMarker) : stepByte b s = .next (onMarker b s) := by
  simp [stepByte, h]

theorem stepByte_awaitCommand {b : Byte} {s : State} (h : s.fsm = .awaitCommand) : stepByte b s = .next (onCommand b s) := by
  simp [stepByte, h]

theorem stepByte_awaitLength {b : Byte} {s : State} (h : s.fsm = .awaitLength) : stepByte b s = .next (onLength b s) := by
  simp [stepByte, h]

theorem stepByte_awaitPayload {b : Byte} {s : State} (h : s.fsm = .awaitPayload) : stepByte b s = .next (onPayload b s) := by
  simp [stepByte, h]

theorem stepByte_awaitChecksum {b : Byte} {s : State} (h : s.fsm = .awaitChecksum) : stepByte b s = onChecksum b s := by
  simp [stepByte, h]

/-- R82: everything a checksum check that ends in a next state can have done. -/
theorem onChecksum_next_cases {b : Byte} {s t : State} (h : onChecksum b s = .next t) :
    s.idx.toNat ≤ s.params.rxCap ∧ ∃ cmd len payload, s.rxBody = cmd :: len :: payload ∧
      ((b = crc8 (cmd :: len :: payload) ∧ ∃ u, dispatch cmd payload s = .next u ∧ t = u.parserReset) ∨
        (b ≠ crc8 (cmd :: len :: payload) ∧ t = (s.noteDrop .crcMismatch).parserReset)) := by
  unfold onChecksum at h
  split at h
  · cases h
  · next hle =>
    refine ⟨by omega, ?_⟩
    unfold checkBody at h
    split at h
    · next cmd len payload hb =>
      refine ⟨cmd, len, payload, hb, ?_⟩
      rw [hb] at h
      split at h
      · next hc =>
        obtain ⟨u, hu, rfl⟩ := onNext_eq_next.1 h
        exact .inl ⟨hc, u, hu, rfl⟩
      · next hc => exact .inr ⟨hc, (Host.Outcome.next.inj h).symm⟩
    · cases h

/-- R87: everything a dispatch that ends in a next state can have done. -/
theorem dispatch_next_cases {cmd : Byte} {payload : List Byte} {s t : State} (h : dispatch cmd payload s = .next t) :
    (∃ i u, decodeBody s.params.cmdId cmd payload = some i ∧ exec i (s.emit (.setIndicator true)) = .next u ∧
      t = u.emit (.setIndicator false)) ∨
    (decodeBody s.params.cmdId cmd payload = none ∧
      t = ((s.emit (.setIndicator true)).noteDrop .unknownCommand).emit (.setIndicator false)) := by
  unfold dispatch at h
  split at h
  · next i hi =>
    obtain ⟨u, hu, rfl⟩ := onNext_eq_next.1 h
    exact .inl ⟨i, u, hi, hu, rfl⟩
  · next hi => exact .inr ⟨hi, (Host.Outcome.next.inj h).symm⟩

/-- A run of `m + n` steps is a run of `m` and then a run of `n`. -/
theorem runSteps_add {m n : Nat} {s t : State} (h : runSteps m s = .next t) : runSteps (m + n) s = runSteps n t := by
  induction m generalizing s with
  | zero => rw [Nat.zero_add, Host.Outcome.next.inj h]
  | succ m ih =>
    rw [show m + 1 + n = (m + n) + 1 by omega]
    simp only [runSteps] at h ⊢
    cases hs : step s with
    | next u => rw [hs] at h; exact ih h
    | fault r => rw [hs] at h; cases h
    | refused r => rw [hs] at h; cases h

/-- One step, then `n` more. -/
theorem runSteps_succ {n : Nat} {s t : State} (h : step s = .next t) : runSteps (n + 1) s = runSteps n t := by
  simp [runSteps, h]

end Sys2Proof.Machine
end

