-- ==== Sys2Proof/Tests/Slice0.lean ====
section
/-! SUPPORT. The model's own tests: the well-formedness checks refuse what they should; words written out from the spec's
encodings decode to their instructions; rows of spec/95_test_vectors.md, one step each; and, for every obligation with
hypotheses, a witness that meets them all together. Every expected value is the spec's. -/

namespace Sys2Proof.Tests

open Sys2Proof.Machine

/-! ## Helpers -/

/-- The state E0 of 44_commands.md. -/
def e0 : State := State.powerOn Params.default
  { pitMode := true
    settings :=
      { channel := 0, powerIndex := 1, rawPowerDbm := 14, frequencyMhz := 5865, freqIndep := false, pitInRange := false,
        pitOutRange := false, unlocked := false, dirty := false }
    expected := 0
    rxbuf := [] }

/-- Bytes at consecutive addresses from 0. -/
def cells (bytes : List Byte) : Memory := Memory.writeAll [] 0 bytes

/-- E0 in the middle of a frame: the bytes stored so far, and the moves that come next. -/
def midFrame (fsm : Fsm) (expected : Word) (stored : List Byte) (input : List EnvEvent) : State :=
  { e0 with fsm := fsm, idx := BitVec.ofNat 16 stored.length, expected := expected, rxbuf := cells stored, input := input }

/-- E0 about to receive the checksum byte of a frame. -/
def checksumNext (stored : List Byte) (crc : Byte) : State := midFrame .awaitChecksum 0 stored [.byte crc]

/-- RX_CAP = 8, the overflow block of 95_test_vectors.md section 4. -/
def smallRx (s : State) : State := { s with params := { s.params with rxCap := 8 } }

/-- The next state, where there is one. -/
def after (o : Host.Outcome State Fault Refusal) : Option State :=
  match o with
  | .next s => some s
  | .fault _ => none
  | .refused _ => none

theorem exists_of_after {o : Host.Outcome State Fault Refusal} {q : State → Bool} (h : (after o).any q = true) :
    ∃ t, o = .next t ∧ q t = true := by
  cases o with
  | next s => exact ⟨s, rfl, h⟩
  | fault _ => cases h
  | refused _ => cases h

theorem default_legal : Params.default.Legal :=
  ⟨by decide, by decide, by decide, by decide, by decide⟩

theorem smallRx_legal : { Params.default with rxCap := 8 }.Legal :=
  ⟨by decide, by decide, by decide, by decide, by decide⟩

/-- The decidable conjuncts of `State.Inv`. -/
def plainInv (s : State) : Bool :=
  decide s.rxbuf.wf && s.rxbuf.all (fun c => decide (c.1 < s.params.rxCap)) && decide (s.idx.toNat ≤ s.params.rxCap) &&
    (s.idx.toNat == 0 || s.rxbuf.read 0 == Config.sync) && (decide (s.idx.toNat ≤ 1) || s.rxbuf.read 1 == Config.marker)

theorem inv_of_plain {s : State} (legal : s.params.Legal) (plain : plainInv s = true) (index : s.IndexFits) : s.Inv := by
  simp only [plainInv, Bool.and_eq_true, Bool.or_eq_true, List.all_eq_true, decide_eq_true_eq, beq_iff_eq] at plain
  obtain ⟨⟨⟨⟨h1, h2⟩, h3⟩, h4⟩, h5⟩ := plain
  exact ⟨legal, h1, h2, h3, ⟨fun h => h4.resolve_left (by omega), fun h => h5.resolve_left (by omega)⟩, index⟩

theorem inv_e0 (input : List EnvEvent) : { e0 with input := input }.Inv :=
  inv_of_plain default_legal rfl rfl

/-! ## Well-formedness -/

/-- R48: a payload of 255 bytes has a frame, one of 256 has none. -/
theorem test_wellFormed_length :
    (Instr.getSettings false (List.replicate 255 0)).WellFormed ∧
    ¬ (Instr.getSettings false (List.replicate 256 0)).WellFormed := by
  simp only [Instr.WellFormed, Instr.payload, List.length_replicate]
  decide

theorem test_distinct_ids :
    CmdIds.default.Distinct ∧ ¬ { CmdIds.default with setMode := CmdIds.default.setPower }.Distinct := by decide

theorem test_legal_refuses_small_tx : ¬ { Params.default with txCap := 15 }.Legal := fun h => absurd h.txCap (by decide)
theorem test_legal_refuses_equal_ids :
    ¬ { Params.default with cmdId := { CmdIds.default with setPower := 1 } }.Legal := fun h => absurd h.cmdId (by decide)
theorem test_legal_refuses_entry_0 :
    ¬ { Params.default with freqTable := Config.freqTableDefault.set 0 5866 }.Legal := fun h => absurd h.table0 (by decide)
theorem test_legal_refuses_entry_1 :
    ¬ { Params.default with freqTable := Config.freqTableDefault.set 1 5866 }.Legal := fun h => absurd h.table1 (by decide)
theorem test_legal_refuses_entry_40 :
    ¬ { Params.default with freqTable := Config.freqTableDefault.set 40 5866 }.Legal := fun h => absurd h.table40 (by decide)

/-! ## The CRC-8 unit (95_test_vectors.md section 2) -/

/-- Rows K1, K2, K4, K5, K6, K7, K11. -/
theorem test_crc8_short :
    crc8 [] = 0x00 ∧ crc8 [0x00] = 0x00 ∧ crc8 [0x01] = 0xD5 ∧ crc8 [0x02] = 0x7F ∧ crc8 [0x80] = 0xEF ∧
    crc8 [0xFF] = 0xF9 ∧ crc8 [0xAA, 0x55] = 0xB4 := by decide

set_option maxRecDepth 4000 in
/-- Row K13, the nine characters 1 to 9. -/
theorem test_crc8_check_value : crc8 [0x31, 0x32, 0x33, 0x34, 0x35, 0x36, 0x37, 0x38, 0x39] = 0xBC := by decide

/-- Rows K20 and K21. -/
theorem test_crc8_residue : crc8 [0x04, 0x01, 0x0E, 0xD0] = 0x00 ∧ crc8 [0x04, 0x01, 0x0F] = 0x05 := by decide

/-! ## Decoding (30_encoding.md R48 to R52; one written-out frame per instruction) -/

/-- `AA 55`, CMD `0000001 0`, LEN 0, CRC 0x16 (row F1). -/
theorem test_decode_getSettings :
    decode CmdIds.default [0b10101010, 0b01010101, 0b00000010, 0b00000000, 0b00010110] =
      .instr (.getSettings false []) [] := by decide

/-- CMD `0000010 1` (flag 1), LEN 1, P = 0x8E, CRC 0xBC (row H7a). -/
theorem test_decode_setPower :
    decode CmdIds.default [0b10101010, 0b01010101, 0b00000101, 0b00000001, 0b10001110, 0b10111100] =
      .instr (.setPower true [0x8E]) [] := by decide

/-- CMD `0000011 0`, LEN 1, CH = 40, CRC 0x26 (row H11). -/
theorem test_decode_setChannel :
    decode CmdIds.default [0b10101010, 0b01010101, 0b00000110, 0b00000001, 0b00101000, 0b00100110] =
      .instr (.setChannel false [40]) [] := by decide

/-- CMD `0000100 0`, LEN 2, F = 0x16A8 high byte first, CRC 0x6C (row F5); a byte after the frame is left. -/
theorem test_decode_setFrequency :
    decode CmdIds.default [0b10101010, 0b01010101, 0b00001000, 0b00000010, 0b00010110, 0b10101000, 0b01101100, 0x55] =
      .instr (.setFrequency false [0x16, 0xA8]) [0x55] := by decide

/-- CMD `0000101 0`, LEN 1, M = 0x0D, CRC 0x3C (row H25). -/
theorem test_decode_setMode :
    decode CmdIds.default [0b10101010, 0b01010101, 0b00001010, 0b00000001, 0b00001101, 0b00111100] =
      .instr (.setMode false [0x0D]) [] := by decide

/-- R62, R49, R66, R52: each reason to reject, by name (rows X3, X8). -/
theorem test_decode_rejects :
    decode CmdIds.default [0x55, 0xAA] = .reject .noSync ∧
    decode CmdIds.default [0xAA, 0xAA, 0x55] = .reject .noMarker ∧
    decode CmdIds.default [0xAA, 0x55, 0x02, 0x01, 0x00] = .reject .truncated ∧
    decode CmdIds.default [0xAA, 0x55, 0x02, 0x00, 0x17] = .reject .checksumMismatch ∧
    decode CmdIds.default [0xAA, 0x55, 0xFE, 0x01, 0x05, 0xE1] = .reject .unmappedId := by decide

/-- The rows of spec/opcode_table.json: CMD = id * 2 + flag. -/
theorem test_decodeTableWord :
    decodeTableWord 8 0x02 = some (.getSettings false []) ∧ decodeTableWord 8 0x03 = some (.getSettings true []) ∧
    decodeTableWord 8 0x04 = some (.setPower false []) ∧ decodeTableWord 8 0x06 = some (.setChannel false []) ∧
    decodeTableWord 8 0x08 = some (.setFrequency false []) ∧ decodeTableWord 8 0x0A = some (.setMode false []) ∧
    decodeTableWord 8 0x00 = none ∧ decodeTableWord 8 0x0C = none := by decide

/-- The first instruction after reset runs: GET_SETTINGS answers the settings the model resets to (log 3, log 4). -/
theorem test_withFetchWord_runs :
    (after (step (State.reset.withFetchWord 8 0x02))).map (fun t => (t.fsm, t.idx, t.trace.length)) =
      some (.awaitSync, 0, 4) := by decide

/-! ## Handlers (95_test_vectors.md section 6): the step of a frame's checksum byte -/

set_option maxRecDepth 4000 in
/-- Row H1. -/
theorem test_getSettings_answers :
    (after (step (checksumNext [0xAA, 0x55, 0x02, 0x00] 0x16))).map (fun t => t.trace) =
      some [.setIndicator true,
        .txBytes [0xAA, 0x55, 0x02, 0x0B, 0x00, 0x01, 0x02, 0x16, 0xE9, 0x0E, 0x03, 0x00, 0x0E, 0x14, 0x17, 0x63],
        .flush, .setIndicator false] := by decide

set_option maxRecDepth 4000 in
/-- Row H3: a payload is ignored, and nothing else changes. -/
theorem test_getSettings_ignores_payload :
    (after (step (checksumNext [0xAA, 0x55, 0x02, 0x03, 0x01, 0x02, 0x03] 0x49))).map
      (fun t => (t.settings, responsesOf t.trace)) =
      some (e0.settings,
        [[0xAA, 0x55, 0x02, 0x0B, 0x00, 0x01, 0x02, 0x16, 0xE9, 0x0E, 0x03, 0x00, 0x0E, 0x14, 0x17, 0x63]]) := by decide

set_option maxRecDepth 4000 in
/-- Row H5. -/
theorem test_setPower_clears_legacy_flag :
    (after (step (checksumNext [0xAA, 0x55, 0x04, 0x01, 0x97] 0x91))).map (fun t => (t.trace, t.settings.rawPowerDbm)) =
      some ([.setIndicator true, .setPowerDbm 23, .markDirty, .txBytes [0xAA, 0x55, 0x04, 0x02, 0x97, 0x01, 0xED],
        .flush, .setIndicator false], 23) := by decide

set_option maxRecDepth 4000 in
/-- Row H7b: a second payload byte is ignored. -/
theorem test_setPower_ignores_extra :
    (after (step (checksumNext [0xAA, 0x55, 0x04, 0x02, 0x17, 0x99] 0xD2))).map
      (fun t => (responsesOf t.trace, t.settings.rawPowerDbm, t.settings.powerIndex)) =
      some ([[0xAA, 0x55, 0x04, 0x02, 0x17, 0x01, 0x46]], 23, 1) := by decide

set_option maxRecDepth 4000 in
/-- Row H12: the last channel. -/
theorem test_setChannel_last :
    (after (step (checksumNext [0xAA, 0x55, 0x06, 0x01, 0x2F] 0x72))).map
      (fun t => (t.trace, t.settings.channel, t.settings.frequencyMhz, t.settings.dirty)) =
      some ([.setIndicator true, .tune 5621, .markDirty, .txBytes [0xAA, 0x55, 0x06, 0x02, 0x2F, 0x01, 0x91],
        .flush, .setIndicator false], 47, 5621, true) := by decide

/-- Row H13: channel 48 is rejected. -/
theorem test_setChannel_rejects :
    (after (step (checksumNext [0xAA, 0x55, 0x06, 0x01, 0x30] 0x5D))).map
      (fun t => (t.trace, t.settings, t.faults, t.drops)) =
      some ([.setIndicator true, .setIndicator false], e0.settings, { invalidChannel := true, rxOverflow := false },
        [.invalidChannel]) := by decide

set_option maxRecDepth 4000 in
/-- Row H17a: the largest frequency that can be stored. -/
theorem test_setFrequency_largest :
    (after (step (checksumNext [0xAA, 0x55, 0x08, 0x02, 0x3F, 0xFF] 0x11))).map
      (fun t => (t.trace, t.settings.frequencyMhz, t.settings.freqIndep)) =
      some ([.setIndicator true, .tune 16383, .markDirty, .txBytes [0xAA, 0x55, 0x08, 0x03, 0x3F, 0xFF, 0x01, 0x17],
        .flush, .setIndicator false], 16383, true) := by decide

set_option maxRecDepth 4000 in
/-- Row H18: the legacy path. -/
theorem test_setFrequency_legacy :
    (after (step (checksumNext [0xAA, 0x55, 0x08, 0x02, 0x40, 0x00] 0x3B))).map (fun t => (t.trace, t.settings)) =
      some ([.setIndicator true, .txBytes [0xAA, 0x55, 0x08, 0x03, 0x16, 0xE9, 0x01, 0xCA], .flush,
        .setIndicator false], e0.settings) := by decide

set_option maxRecDepth 4000 in
/-- Row H23: pit mode stays on and is reported. -/
theorem test_setMode_keeps_pit :
    (after (step (checksumNext [0xAA, 0x55, 0x0A, 0x01, 0x03] 0x94))).map
      (fun t => (t.trace, t.pitMode, t.settings.pitInRange, t.settings.pitOutRange)) =
      some ([.setIndicator true, .markDirty, .txBytes [0xAA, 0x55, 0x0A, 0x02, 0x07, 0x01, 0xEA], .flush,
        .setIndicator false], true, true, true) := by decide

set_option maxRecDepth 4000 in
/-- Row H25: bit 2 clears pit mode, and the answer's bit 2 is the cleared register. -/
theorem test_setMode_clears_pit :
    (after (step (checksumNext [0xAA, 0x55, 0x0A, 0x01, 0x0D] 0x3C))).map
      (fun t => (t.trace, t.pitMode, t.settings.unlocked)) =
      some ([.setIndicator true, .setPowerDbm 14, .markDirty, .txBytes [0xAA, 0x55, 0x0A, 0x02, 0x09, 0x01, 0x88],
        .flush, .setIndicator false], false, true) := by decide

/-! ## The framing state machine and the router (95_test_vectors.md sections 4 and 5), one step each -/

/-- The registers a framing step writes. -/
def parser (o : Host.Outcome State Fault Refusal) : Option (Fsm × Word × Word × List DropCode) :=
  (after o).map (fun t => (t.fsm, t.idx, t.expected, t.drops))

/-- Rows M1, M3. -/
theorem test_sync :
    parser (step { e0 with input := [.byte 0xAA] }) = some (.awaitMarker, 1, 0, []) ∧
    parser (step { e0 with input := [.byte 0x55] }) = some (.awaitSync, 0, 0, [.desyncSync]) := by decide

/-- Rows M7, M4, M5: a second 0xAA is not looked at again. -/
theorem test_marker :
    parser (step (midFrame .awaitMarker 0 [0xAA] [.byte 0x55])) = some (.awaitCommand, 2, 0, []) ∧
    parser (step (midFrame .awaitMarker 0 [0xAA] [.byte 0x00])) = some (.awaitSync, 0, 0, [.desyncMarker]) ∧
    parser (step (midFrame .awaitMarker 0 [0xAA] [.byte 0xAA])) = some (.awaitSync, 0, 0, [.desyncMarker]) := by decide

/-- Row M8. -/
theorem test_command :
    parser (step (midFrame .awaitCommand 0 [0xAA, 0x55] [.byte 0x02])) = some (.awaitLength, 3, 0, []) := by decide

/-- Rows M9 (expected not written), M10, M13. -/
theorem test_length :
    parser (step (midFrame .awaitLength 7 [0xAA, 0x55, 0x02] [.byte 0])) = some (.awaitChecksum, 4, 7, []) ∧
    parser (step (midFrame .awaitLength 0 [0xAA, 0x55, 0x08] [.byte 2])) = some (.awaitPayload, 4, 6, []) ∧
    parser (step (midFrame .awaitLength 0 [0xAA, 0x55, 0x04] [.byte 255])) = some (.awaitPayload, 4, 259, []) := by decide

/-- Rows M11, M12, M14. -/
theorem test_payload :
    parser (step (midFrame .awaitPayload 6 [0xAA, 0x55, 8, 2] [.byte 0x16])) = some (.awaitPayload, 5, 6, []) ∧
    parser (step (midFrame .awaitPayload 6 [0xAA, 0x55, 8, 2, 0x16] [.byte 0xA8])) = some (.awaitChecksum, 6, 6, []) ∧
    parser (step (midFrame .awaitPayload 5 [0xAA, 0x55, 4, 1] [.byte 0xAA])) = some (.awaitChecksum, 5, 5, []) := by decide

/-- Row M17, X9: the checksum is tested first. -/
theorem test_checksum_mismatch :
    (after (step (checksumNext [0xAA, 0x55, 0x06, 0x01, 0x30] 0x00))).map
      (fun t => (t.fsm, t.idx, t.trace, t.faults, t.drops)) =
      some (.awaitSync, 0, [], FaultRecord.empty, [.crcMismatch]) := by decide

/-- Rows X4, X8: unmapped ids. -/
theorem test_unmapped :
    (after (step (checksumNext [0xAA, 0x55, 0x00, 0x00] 0x00))).map (fun t => (t.trace, t.settings, t.drops)) =
      some ([.setIndicator true, .setIndicator false], e0.settings, [.unknownCommand]) ∧
    (after (step (checksumNext [0xAA, 0x55, 0xFE, 0x01, 0x05] 0xE1))).map (fun t => (t.trace, t.settings, t.drops)) =
      some ([.setIndicator true, .setIndicator false], e0.settings, [.unknownCommand]) := by decide

/-- RX_CAP = 8: the ninth byte overflows (95_test_vectors.md section 4). -/
theorem test_overflow :
    (after (step (smallRx (midFrame .awaitPayload 9 [0xAA, 0x55, 2, 5, 1, 2, 3, 4] [.byte 5])))).map
      (fun t => (t.fsm, t.idx, t.faults, t.trace, t.drops)) =
      some (.awaitSync, 0, { invalidChannel := false, rxOverflow := true }, [], [.rxOverflow]) := by decide

/-- RX_CAP = 3, `AA 55 02 00`: the length byte overflows, and the parser is back in AwaitSync (R105). -/
theorem test_overflow_in_header :
    (after (step { midFrame .awaitLength 0 [0xAA, 0x55, 0x02] [.byte 0] with
      params := { Params.default with rxCap := 3 } })).map (fun t => (t.fsm, t.idx, t.faults.rxOverflow, t.drops)) =
      some (.awaitSync, 0, true, [.rxOverflow]) := by decide

/-- Writing what an unlisted address reads as removes the cell, and equal memories are equal data (R36). -/
theorem test_memory_canonical :
    Memory.write [(1, 0x55), (4, 0x0E)] 4 0 = [(1, 0x55)] ∧ Memory.write [(4, 0x0E)] 1 0x55 = [(1, 0x55), (4, 0x0E)] ∧
    ¬ Memory.wf [(4, 0x0E), (1, 0x55)] ∧ ¬ Memory.wf [(4, 0)] := by decide

/-- R126: an environment write, and the clearing of S.dirty. -/
theorem test_environment_writes :
    (after (step { e0 with input := [.write (.frequencyMhz 5800)] })).map (fun t => (t.settings.frequencyMhz, t.trace)) =
      some (5800, []) ∧
    (after (step { e0 with settings := { e0.settings with dirty := true }, input := [.write (.dirty false)] })).map
      (fun t => t.settings.dirty) = some false := by decide

/-- R64: what the pseudo-instructions expand to (programs P3 and P4). -/
theorem test_pseudo_instructions :
    encode CmdIds.default pitFreqGet = [0xAA, 0x55, 0x08, 0x02, 0x40, 0x00, 0x3B] ∧
    encode CmdIds.default (pitFreqSet 5800) = [0xAA, 0x55, 0x08, 0x02, 0x96, 0xA8, 0xC7] ∧
    encode CmdIds.default (clearPit 0) = [0xAA, 0x55, 0x0A, 0x01, 0x04, 0xC0] ∧
    encode CmdIds.default (setPowerLegacy 14) = [0xAA, 0x55, 0x04, 0x01, 0x8E, 0x3F] := by decide

/-! ## Witnesses: for each obligation with hypotheses, values that meet all of them together, one for each clause -/

theorem exists_next {o : Host.Outcome State Fault Refusal} (h : (after o).isSome = true) : ∃ t, o = .next t := by
  cases o with
  | next s => exact ⟨s, rfl⟩
  | fault _ => cases h
  | refused _ => cases h

/-- Row F1's frame, four bytes of five received: GET_SETTINGS with no payload. -/
def getFrame (crc : Byte) : State := checksumNext [0xAA, 0x55, 0x02, 0x00] crc

theorem inv_getFrame (crc : Byte) : (getFrame crc).Inv := inv_of_plain default_legal rfl rfl

/-- SET_FREQUENCY's frame in its payload, row M10. -/
def payloadFrame (input : List EnvEvent) : State := midFrame .awaitPayload 6 [0xAA, 0x55, 0x08, 0x02] input

theorem inv_payloadFrame (input : List EnvEvent) : (payloadFrame input).Inv :=
  inv_of_plain default_legal rfl ⟨(by decide : 4 ≤ 4), (by decide : 4 < 6), rfl, (by decide : 1 ≤ 2)⟩

theorem witness_Crc8IsLinear : ([0x04, 0x01] : List Byte).length = ([0x0E, 0xD0] : List Byte).length := rfl

theorem witness_Crc8DetectsOneChangedByte : (0x0E : Byte) ≠ 0x0F := by decide

theorem witness_DecodeOfEncode :
    CmdIds.default.Distinct ∧ (Instr.getSettings false (List.replicate 255 0)).WellFormed ∧
    (Instr.getSettings false []).WellFormed := ⟨by decide, test_wellFormed_length.1, by decide⟩

theorem witness_EncodeOfDecode :
    ∃ bytes i rest, decode CmdIds.default bytes = .instr i rest := ⟨_, _, _, test_decode_setFrequency⟩

theorem witness_DispatchKeyedByShiftedCommand : (0x06 : Byte) >>> 1 = (0x07 : Byte) >>> 1 := by decide

/-- The largest payload that TX_CAP = 16 admits. -/
theorem witness_RespondSendsOneSignedFrame :
    (List.replicate 11 (0 : Byte)).length ≤ 255 ∧ 5 + (List.replicate 11 (0 : Byte)).length ≤ Params.default.txCap := by
  decide

theorem witness_RespondRefusesOverlongFrame : Params.default.txCap < 5 + (List.replicate 12 (0 : Byte)).length := by
  decide

theorem witness_GetSettingsAnswers : 16 ≤ e0.params.txCap := by decide

/-- A byte of the payload, and a missing byte. -/
theorem witness_SetPowerAppliesAndEchoes :
    16 ≤ e0.params.txCap ∧ (0x97 : Byte) = requestByte [0x97] 0 (Config.drawU8 e0.draws) ∧
    Config.drawU8 e0.draws = requestByte [] 0 (Config.drawU8 e0.draws) := ⟨by decide, rfl, rfl⟩

theorem witness_SetChannelStoresAndTunes :
    (47 : Byte).toNat < 48 ∧ 16 ≤ e0.params.txCap ∧ (47 : Byte) = requestByte [47] 0 (Config.drawU8 e0.draws) :=
  ⟨by decide, by decide, rfl⟩

theorem witness_SetChannelRejectsOutOfRange :
    48 ≤ (48 : Byte).toNat ∧ (48 : Byte) = requestByte [48] 0 (Config.drawU8 e0.draws) := ⟨by decide, rfl⟩

theorem witness_SetFrequencyStoresVerbatim :
    16 ≤ e0.params.txCap ∧ (0x3F : Byte) = requestByte [0x3F, 0xFF] 0 (Config.drawU8 e0.draws) ∧
    (0xFF : Byte) = requestByte [0x3F, 0xFF] 1 (Config.drawU8 (e0.draws + (1 - 2))) ∧
    256 * (0x3F : Byte).toNat + (0xFF : Byte).toNat < 0x4000 := ⟨by decide, rfl, rfl, by decide⟩

theorem witness_SetFrequencyLegacyChangesNothing :
    16 ≤ e0.params.txCap ∧ (0x40 : Byte) = requestByte [0x40, 0x00] 0 (Config.drawU8 e0.draws) ∧
    (0x00 : Byte) = requestByte [0x40, 0x00] 1 (Config.drawU8 (e0.draws + (1 - 2))) ∧
    0x4000 ≤ 256 * (0x40 : Byte).toNat + (0x00 : Byte).toNat := ⟨by decide, rfl, rfl, by decide⟩

/-- With bit 2 set, and with it clear. -/
theorem witness_SetModeStoresAndReports :
    16 ≤ e0.params.txCap ∧ (0x04 : Byte) = requestByte [0x04] 0 (Config.drawU8 e0.draws) ∧
    (0x00 : Byte) = requestByte [0x00] 0 (Config.drawU8 e0.draws) := ⟨by decide, rfl, rfl⟩

theorem witness_LegacyPseudoInstructionsOnlyAnswer :
    16 ≤ e0.params.txCap ∧ (pitFreqSet 5800 = pitFreqSet 5800 ∨ pitFreqSet 5800 = pitFreqGet) ∧
    (pitFreqGet = pitFreqSet 0 ∨ pitFreqGet = pitFreqGet) := ⟨by decide, .inl rfl, .inr rfl⟩

/-- Every command, SET_CHANNEL on both of its paths. -/
theorem witness_HandlersLeaveTheRest :
    (∃ t, exec (.getSettings false []) e0 = .next t) ∧ (∃ t, exec (.setPower false [0x97]) e0 = .next t) ∧
    (∃ t, exec (.setChannel false [47]) e0 = .next t) ∧ (∃ t, exec (.setChannel false [48]) e0 = .next t) ∧
    (∃ t, exec (.setFrequency false [0x16, 0xA8]) e0 = .next t) ∧ (∃ t, exec (.setMode false [0x0D]) e0 = .next t) :=
  ⟨exists_next (by decide), exists_next (by decide), exists_next (by decide), exists_next (by decide),
    exists_next (by decide), exists_next (by decide)⟩

theorem witness_HandlersAnswerExactlyOnce :
    (∃ t, exec (.setChannel false [47]) e0 = .next t) ∧ (∃ t, exec (.setChannel false [48]) e0 = .next t) :=
  ⟨exists_next (by decide), exists_next (by decide)⟩

theorem witness_UnlockedGatesNothing : ∃ t, exec (.getSettings false []) e0 = .next t := exists_next (by decide)

/-- The last free byte of the buffer, and the buffer full. -/
theorem witness_StoreWritesOrOverflows :
    ({ e0 with idx := 258 }.idx.toNat < e0.params.rxCap) ∧ (e0.params.rxCap ≤ { e0 with idx := 259 }.idx.toNat) := by
  decide

theorem witness_AwaitSyncStep :
    ({ e0 with input := [.byte 0xAA] }.Inv ∧ e0.fsm = .awaitSync ∧ 0 < e0.params.rxCap) ∧
    ({ e0 with input := [.byte 0xAB] }.Inv ∧ (0xAB : Byte) ≠ 0xAA) := ⟨⟨inv_e0 _, rfl, by decide⟩, inv_e0 _, by decide⟩

/-- The marker, and 0xAA again. -/
theorem witness_AwaitMarkerStep :
    ∀ b ∈ ([0x55, 0xAA] : List Byte), ∃ s : State, s.Inv ∧ s.fsm = .awaitMarker ∧ s.input = [.byte b] ∧
      1 < s.params.rxCap :=
  fun b _ => ⟨midFrame .awaitMarker 0 [0xAA] [.byte b], inv_of_plain default_legal rfl rfl, rfl, rfl,
    (by decide : 1 < 259)⟩

theorem witness_AwaitCommandStep :
    ∃ s : State, s.Inv ∧ s.fsm = .awaitCommand ∧ s.input = [.byte 0xAA] ∧ 2 < s.params.rxCap :=
  ⟨midFrame .awaitCommand 0 [0xAA, 0x55] _, inv_of_plain default_legal rfl rfl, rfl, rfl, (by decide : 2 < 259)⟩

/-- Length 0, 1 and 255. -/
theorem witness_AwaitLengthStep :
    ∀ b ∈ ([0, 1, 255] : List Byte), ∃ s : State, s.Inv ∧ s.fsm = .awaitLength ∧ s.input = [.byte b] ∧
      3 < s.params.rxCap :=
  fun b _ => ⟨midFrame .awaitLength 0 [0xAA, 0x55, 0x04] [.byte b], inv_of_plain default_legal rfl rfl, rfl, rfl,
    (by decide : 3 < 259)⟩

/-- The last byte RX_CAP = 8 holds, and the one after it. -/
theorem witness_AwaitPayloadStep :
    (∃ s : State, s.Inv ∧ s.fsm = .awaitPayload ∧ s.input = [.byte 4] ∧ s.idx.toNat + 1 = s.params.rxCap) ∧
    (∃ s : State, s.Inv ∧ s.fsm = .awaitPayload ∧ s.input = [.byte 5] ∧ s.params.rxCap ≤ s.idx.toNat) :=
  ⟨⟨smallRx (midFrame .awaitPayload 9 [0xAA, 0x55, 2, 5, 1, 2, 3] [.byte 4]),
      inv_of_plain smallRx_legal rfl ⟨by decide, (by decide : 7 < 9), rfl, by decide⟩, rfl, rfl, rfl⟩,
    ⟨smallRx (midFrame .awaitPayload 9 [0xAA, 0x55, 2, 5, 1, 2, 3, 4] [.byte 5]),
      inv_of_plain smallRx_legal rfl ⟨by decide, (by decide : 8 < 9), rfl, by decide⟩, rfl, rfl, by decide⟩⟩

/-- A full buffer in each of the five storing states: RX_CAP is the number of bytes stored so far. -/
theorem witness_FullBufferResetsParser :
    ∀ c ∈ [(Fsm.awaitSync, 0, (0xAA : Byte)), (.awaitMarker, 1, 0x55), (.awaitCommand, 2, 0x02), (.awaitLength, 3, 0x00),
        (.awaitPayload, 4, 0x0E)], ∃ s : State, s.input = [.byte c.2.2] ∧ s.params.rxCap ≤ s.idx.toNat ∧
      s.fsm = c.1 ∧ c.1 ≠ .awaitChecksum ∧ (c.1 = .awaitSync → c.2.2 = 0xAA) ∧ (c.1 = .awaitMarker → c.2.2 = 0x55) := by
  intro c h
  refine ⟨{ e0 with
    params := { e0.params with rxCap := c.2.1 }, fsm := c.1, idx := BitVec.ofNat 16 c.2.1, input := [.byte c.2.2] },
    rfl, ?_, rfl, ?_⟩
  all_goals
    simp only [List.mem_cons, List.not_mem_nil, or_false] at h
    rcases h with rfl | rfl | rfl | rfl | rfl <;> decide

theorem witness_ChecksumMismatchDropsFrame :
    ∃ (s : State) (body : List Byte), s.Inv ∧ s.fsm = .awaitChecksum ∧ s.input = [.byte 0x17] ∧
      body.length + 2 = s.idx.toNat ∧ (∀ k < body.length, body[k]? = some (s.rxbuf.read (2 + k))) ∧ (0x17 : Byte) ≠ crc8 body :=
  ⟨getFrame 0x17, [0x02, 0x00], inv_getFrame _, rfl, rfl, rfl, by decide, by decide⟩

theorem witness_StepRunsDecodedInstruction :
    ∃ s : State, s.Inv ∧ s.fsm = .awaitChecksum ∧ s.input = [.byte 0x91] ∧ s.idx.toNat = 4 + [(0x97 : Byte)].length ∧
      s.rxbuf.read 2 = 0x04 ∧ s.rxbuf.read 3 = 0x01 ∧
      (∀ k < [(0x97 : Byte)].length, [(0x97 : Byte)][k]? = some (s.rxbuf.read (4 + k))) ∧
      (0x91 : Byte) = crc8 [0x04, 0x01, 0x97] ∧
      decodeBody s.params.cmdId 0x04 [0x97] = some (.setPower false [0x97]) :=
  ⟨checksumNext [0xAA, 0x55, 0x04, 0x01, 0x97] 0x91, inv_of_plain default_legal rfl rfl, rfl, rfl, rfl, rfl,
    rfl, by decide, by decide, by decide⟩

theorem witness_UnmappedCommandIsNoOp :
    ∃ s : State, s.Inv ∧ s.fsm = .awaitChecksum ∧ s.input = [.byte 0x74] ∧ s.idx.toNat = 4 + ([] : List Byte).length ∧
      s.rxbuf.read 2 = 0x0C ∧ s.rxbuf.read 3 = 0x00 ∧
      (∀ k < ([] : List Byte).length, ([] : List Byte)[k]? = some (s.rxbuf.read (4 + k))) ∧ (0x74 : Byte) = crc8 [0x0C, 0x00] ∧
      decodeBody s.params.cmdId 0x0C [] = none :=
  ⟨checksumNext [0xAA, 0x55, 0x0C, 0x00] 0x74, inv_of_plain default_legal rfl rfl, rfl, rfl, rfl, rfl,
    rfl, by decide, by decide, by decide⟩

theorem witness_EnvironmentMovesBetweenSteps :
    ({ e0 with input := [.write (.powerIndex 3)] }.input = .write (.powerIndex 3) :: []) ∧ e0.input = [] := ⟨rfl, rfl⟩

/-- The default block, and one with RX_CAP = 8 whose last byte holds 7Fh at power-on. -/
theorem witness_PowerOnMeetsInvariants :
    (Params.default.Legal ∧ BootValues.zero.Legal Params.default) ∧
    { Params.default with rxCap := 8 }.Legal ∧
    { BootValues.zero with rxbuf := [(7, 0x7F)] }.Legal { Params.default with rxCap := 8 } :=
  ⟨⟨default_legal, by decide, by decide⟩, smallRx_legal, by decide, by decide⟩

theorem witness_StepKeepsInvariants : ∃ s t : State, s.Inv ∧ step s = .next t :=
  let ⟨t, h⟩ := exists_next (o := step (getFrame 0x17)) (by decide)
  ⟨_, t, inv_getFrame _, h⟩

theorem witness_NoStuckState : (getFrame 0x17).Inv ∧ (payloadFrame [.byte 0x16]).Inv :=
  ⟨inv_getFrame _, inv_payloadFrame _⟩

theorem witness_RunEndsAfterItsInput : (payloadFrame [.byte 0x16, .write (.channel 9), .byte 0xA8]).Inv := inv_payloadFrame _

theorem witness_ReturnToSyncResetsIndex :
    ∃ t, (getFrame 0x17).input = [.byte 0x17] ∧ step (getFrame 0x17) = .next t ∧ t.fsm = .awaitSync :=
  let ⟨t, h, q⟩ := exists_of_after (o := step (getFrame 0x17)) (q := fun t => decide (t.fsm = .awaitSync)) (by decide)
  ⟨t, rfl, h, of_decide_eq_true q⟩

/-- A trace that already holds a response (row F7). -/
theorem witness_StepKeepsTraceWellFormed :
    ∃ s t : State, s.params.cmdId.Distinct ∧ s.trace ≠ [] ∧ traceWellFormed s.params.cmdId s.trace = true ∧
      step s = .next t :=
  let s : State := { e0 with
    input := [.byte 0xAA], trace := [.markDirty, .txBytes [0xAA, 0x55, 0x04, 0x02, 0x0E, 0x01, 0xA5], .flush] }
  let ⟨t, h⟩ := exists_next (o := step s) (by decide)
  ⟨s, t, by decide, by decide, by decide, h⟩

theorem witness_OnlyChecksumStepsAct :
    ∃ s t : State, step s = .next t ∧ s.fsm ≠ .awaitChecksum ∧ ∀ w rest, s.input ≠ .write w :: rest :=
  let ⟨t, h⟩ := exists_next (o := step (payloadFrame [.byte 0x16])) (by decide)
  ⟨_, t, h, by decide, fun _ _ h => (nomatch h)⟩

/-- Pit mode kept by a step, and cleared by SET_MODE. -/
theorem witness_PitModeIsOnlyEverCleared :
    (∃ s t : State, step s = .next t ∧ t.pitMode = true) ∧
    (∃ t, exec (.setMode false [0x04]) e0 = .next t ∧ t.pitMode ≠ e0.pitMode) :=
  let ⟨t, h, q⟩ := exists_of_after (o := step (getFrame 0x17)) (q := fun t => t.pitMode) (by decide)
  let ⟨u, g, r⟩ := exists_of_after (o := exec (.setMode false [0x04]) e0) (q := fun t => decide (t.pitMode ≠ e0.pitMode))
    (by decide)
  ⟨⟨_, t, h, q⟩, u, g, of_decide_eq_true r⟩

theorem witness_PowerIndexOnlyFromEnvironment :
    ∃ s t : State, step s = .next t ∧ t.settings.powerIndex ≠ s.settings.powerIndex :=
  let s : State := { e0 with input := [.write (.powerIndex 3)] }
  let ⟨t, h, q⟩ := exists_of_after (o := step s) (q := fun t => decide (t.settings.powerIndex ≠ s.settings.powerIndex))
    (by decide)
  ⟨s, t, h, of_decide_eq_true q⟩

theorem witness_DirtyIsClearedOnlyByEnvironment :
    ∃ s t : State, step s = .next t ∧ s.settings.dirty = true ∧ t.settings.dirty = false :=
  let s : State := { e0 with settings := { e0.settings with dirty := true }, input := [.write (.dirty false)] }
  let ⟨t, h, q⟩ := exists_of_after (o := step s) (q := fun t => !t.settings.dirty) (by decide)
  ⟨s, t, h, rfl, by simpa using q⟩

theorem witness_BlockWritesSettingsInRange :
    ∃ s t : State, step s = .next t ∧ (∀ w rest, s.input ≠ .write w :: rest) ∧ t.settings.channel ≠ s.settings.channel :=
  let s : State := checksumNext [0xAA, 0x55, 0x06, 0x01, 0x2F] 0x72
  let ⟨t, h, q⟩ := exists_of_after (o := step s) (q := fun t => decide (t.settings.channel ≠ s.settings.channel)) (by decide)
  ⟨s, t, h, fun _ _ h => (nomatch h), of_decide_eq_true q⟩

/-- A step that finds a kind recorded, a handler that records InvalidChannel, and a step that records each kind. -/
theorem witness_FaultsAreSticky :
    (∃ s t : State, step s = .next t ∧ s.faults.has .invalidChannel = true) ∧
    (∃ t : State, exec (.setChannel false [48]) e0 = .next t ∧ t.faults.invalidChannel = true ∧
      e0.faults.invalidChannel = false) ∧
    (∃ s t : State, step s = .next t ∧ t.faults.invalidChannel = true ∧ s.faults.invalidChannel = false) ∧
    (∃ s t : State, step s = .next t ∧ t.faults.rxOverflow = true ∧ s.faults.rxOverflow = false) :=
  let s0 : State := { e0 with faults := { invalidChannel := true, rxOverflow := false }, input := [.byte 0xAA] }
  let s : State := checksumNext [0xAA, 0x55, 0x06, 0x01, 0x30] 0x5D
  let s' : State := smallRx (midFrame .awaitPayload 9 [0xAA, 0x55, 2, 5, 1, 2, 3, 4] [.byte 5])
  let ⟨t0, h0⟩ := exists_next (o := step s0) (by decide)
  let ⟨u, g, r⟩ := exists_of_after (o := exec (.setChannel false [48]) e0) (q := fun t => t.faults.invalidChannel) (by decide)
  let ⟨t, h, q⟩ := exists_of_after (o := step s) (q := fun t => t.faults.invalidChannel) (by decide)
  let ⟨t', h', q'⟩ := exists_of_after (o := step s') (q := fun t => t.faults.rxOverflow) (by decide)
  ⟨⟨s0, t0, h0, rfl⟩, ⟨u, g, r, rfl⟩, ⟨s, t, h, q, rfl⟩, s', t', h', q', rfl⟩

theorem witness_DefaultBufferNeverOverflows :
    ∃ s t : State, s.Inv ∧ 259 ≤ s.params.rxCap ∧ step s = .next t :=
  let ⟨t, h⟩ := exists_next (o := step (payloadFrame [.byte 0x16])) (by decide)
  ⟨_, t, inv_payloadFrame _, by decide, h⟩

theorem witness_AtMostOneDropPerStep : ∃ s t : State, step s = .next t ∧ t.drops ≠ s.drops :=
  let ⟨t, h, q⟩ := exists_of_after (o := step (getFrame 0x17)) (q := fun t => decide (t.drops ≠ (getFrame 0x17).drops))
    (by decide)
  ⟨_, t, h, of_decide_eq_true q⟩

/-- Row X9: SET_CHANNEL 48 with a wrong checksum. -/
theorem witness_ChecksumTestedFirst :
    ∃ s t : State, s.input = [.byte 0x00] ∧ (0x00 : Byte) ≠ crc8 s.rxBody ∧ step s = .next t :=
  let s : State := checksumNext [0xAA, 0x55, 0x06, 0x01, 0x30] 0x00
  let ⟨t, h⟩ := exists_next (o := step s) (by decide)
  ⟨s, t, rfl, by decide, h⟩

theorem witness_ParametersNeverChange : ∃ s t : State, step s = .next t :=
  let ⟨t, h⟩ := exists_next (o := step (getFrame 0x16)) (by decide)
  ⟨_, t, h⟩

/-- The same block with another stale `expected` and a stale byte at `idx`. -/
theorem witness_StaleBufferIsUnobservable :
    ∃ s s' t : State, s ≠ s' ∧ SameObservable s s' ∧ step s = .next t :=
  let s : State := midFrame .awaitMarker 0 [0xAA] [.byte 0x55]
  let s' : State := { s with expected := 9, rxbuf := cells [0xAA, 0x07] }
  let ⟨t, h⟩ := exists_next (o := step s) (by decide)
  ⟨s, s', t, by decide, ⟨rfl, rfl, rfl, fun h => (nomatch h), by decide, rfl, rfl, rfl, rfl, rfl, rfl, rfl⟩, h⟩

theorem witness_WholeFrameRunsItsInstruction :
    ∃ (s : State) (i : Instr), s.Inv ∧ s.fsm = .awaitSync ∧ 259 ≤ s.params.rxCap ∧ i.WellFormed ∧
      s.input = (encode s.params.cmdId i).map EnvEvent.byte ++ [.byte 0xAA] :=
  ⟨{ e0 with input := (encode e0.params.cmdId (.setPower false [0x97])).map EnvEvent.byte ++ [.byte 0xAA] },
    .setPower false [0x97], inv_e0 _, rfl, by decide, by decide, rfl⟩

/-- One byte short of the announced length, and all of it. -/
theorem witness_PayloadTakesExactlyItsLength :
    ∀ bytes ∈ ([[0x16], [0x16, 0xA8]] : List (List Byte)), ∃ s : State, s.Inv ∧ s.fsm = .awaitPayload ∧
      259 ≤ s.params.rxCap ∧ s.idx.toNat + bytes.length ≤ s.expected.toNat ∧ s.input = bytes.map EnvEvent.byte ++ [] := by
  intro bytes h
  refine ⟨payloadFrame (bytes.map EnvEvent.byte ++ []), inv_payloadFrame _, rfl, (by decide : 259 ≤ 259), ?_, rfl⟩
  revert bytes
  decide

/-- Program P2, and the same noise before SET_CHANNEL 47. -/
theorem witness_NoiseThenFrameAnswersOnce :
    ∀ i ∈ [Instr.getSettings false [], Instr.setChannel false [47]], ∃ (s : State) (noise : List Byte), s.Inv ∧
      s.fsm = .awaitSync ∧ 259 ≤ s.params.rxCap ∧ i.WellFormed ∧ (∀ b ∈ noise, b ≠ 0xAA) ∧
      (∀ flag payload, i = .setChannel flag payload → ∃ ch more, payload = ch :: more ∧ ch.toNat < 48) ∧
      s.input = (noise ++ encode s.params.cmdId i).map EnvEvent.byte := by
  intro i h
  refine ⟨{ e0 with input := ([0x00, 0x13, 0x55, 0x7F] ++ encode e0.params.cmdId i).map EnvEvent.byte },
    [0x00, 0x13, 0x55, 0x7F], inv_e0 _, rfl, (by decide : 259 ≤ 259), ?_, by decide, ?_, rfl⟩
  · revert i; decide
  · rintro flag payload rfl
    simp at h
    exact ⟨47, [], h.2, by decide⟩

/-- Row X1: SET_POWER 14 with payload bit 0 flipped. -/
theorem witness_CorruptedPayloadIsSuppressed :
    ∃ s : State, s.Inv ∧ s.fsm = .awaitSync ∧ 259 ≤ s.params.rxCap ∧
      ([] : List Byte).length + 1 + ([] : List Byte).length ≤ 255 ∧ (0x0E : Byte) ≠ 0x0F ∧
      s.input = (frameWithCrc 0x04 ([] ++ 0x0F :: [])
        (frameCrc 0x04 (lenByte ([] ++ 0x0E :: [])) ([] ++ 0x0E :: []))).map EnvEvent.byte ++ [] :=
  ⟨_, inv_e0 _, rfl, by decide, by decide, by decide, rfl⟩

set_option maxRecDepth 4000 in
/-- Row H5's events, without the indicator. -/
theorem witness_ResponseDecodesAsItsCommand :
    ∃ t : State, e0.params.cmdId.Distinct ∧ exec (.setPower false [0x97]) e0 = .next t ∧
      t.trace = e0.trace ++ [.setPowerDbm 23, .markDirty] ++
        [.txBytes [0xAA, 0x55, 0x04, 0x02, 0x97, 0x01, 0xED], .flush] :=
  let ⟨t, h, q⟩ := exists_of_after (o := exec (.setPower false [0x97]) e0)
    (q := fun t => decide (t.trace = e0.trace ++ [.setPowerDbm 23, .markDirty] ++
      [.txBytes [0xAA, 0x55, 0x04, 0x02, 0x97, 0x01, 0xED], .flush])) (by decide)
  ⟨t, by decide, h, of_decide_eq_true q⟩

/-- The longest way back: a length of 255 just announced. -/
theorem witness_ZeroBytesReturnToSync :
    ∃ s : State, s.Inv ∧ s.input = List.replicate 256 (.byte 0) ++ [] :=
  ⟨midFrame .awaitPayload 259 [0xAA, 0x55, 0x04, 0xFF] _,
    inv_of_plain default_legal rfl ⟨(by decide : 4 ≤ 4), (by decide : 4 < 259), rfl, (by decide : 1 ≤ 255)⟩, rfl⟩

end Sys2Proof.Tests
end

section
/-! SUPPORT. Big-endian fields and the default channel table: R38, R46 of 20_memory.md. -/

namespace Sys2Proof.Machine

/-- BE16 is concatenation, high byte first (R38). -/
theorem be16_eq_append (h l : Byte) : be16 h l = h ++ l :=
  BitVec.setWidth_append_eq_shiftLeft_setWidth_or.symm.trans (BitVec.setWidth_eq (h ++ l))

theorem toNat_be16 (h l : Byte) : (be16 h l).toNat = 256 * h.toNat + l.toNat := by
  rw [be16_eq_append, BitVec.toNat_append, ← Nat.shiftLeft_add_eq_or_of_lt l.isLt, Nat.shiftLeft_eq]
  omega

@[simp] theorem hiByte_be16 (h l : Byte) : hiByte (be16 h l) = h := by
  rw [be16_eq_append, hiByte, BitVec.extractLsb'_append_eq_left]

@[simp] theorem loByte_be16 (h l : Byte) : loByte (be16 h l) = l := by
  rw [be16_eq_append, loByte, BitVec.extractLsb'_append_eq_right]

@[simp] theorem be16_hiByte_loByte (v : Word) : be16 (hiByte v) (loByte v) = v := by
  have join : hiByte v ++ loByte v = v.extractLsb' 0 16 := BitVec.extractLsb'_append_extractLsb'_eq_extractLsb' rfl
  rw [be16_eq_append, join, BitVec.extractLsb'_eq_self]

/-- Settles O10: BE16 is the concatenation of the two bytes, HI and LO are its halves. -/
theorem bigEndianFields : Obligations.BigEndianFields :=
  ⟨toNat_be16, fun h l => ⟨hiByte_be16 h l, loByte_be16 h l⟩, be16_hiByte_loByte⟩

/-- Settles O38: the pinned lookups, which are also the table clauses of `Params.Legal`. -/
theorem pinnedTableEntries : Obligations.PinnedTableEntries := by
  have entry0 : freqForChannel Config.freqTableDefault 0 = 5865 := by decide
  have entry1 : freqForChannel Config.freqTableDefault 1 = 5845 := by decide
  have entry40 : freqForChannel Config.freqTableDefault 40 = 5362 := by decide
  have entry47 : freqForChannel Config.freqTableDefault 47 = 5621 := by decide
  have txCap : 16 ≤ Params.default.txCap := Nat.le_refl 16
  have distinct : CmdIds.default.Distinct := by decide
  exact ⟨entry0, entry1, entry40, entry47, txCap, distinct, entry0, entry1, entry40⟩

end Sys2Proof.Machine
end

section
/-! SUPPORT. What the operations, the handlers and the framing rules do to the sticky fault record (R22, R104, R105), and
the statement that a buffer of 259 bytes never overflows. -/

namespace Sys2Proof.Machine

/-! ## The operations and the handlers -/

@[simp] theorem FaultRecord.add_invalidChannel_rxOverflow (f : FaultRecord) :
    (f.add .invalidChannel).rxOverflow = f.rxOverflow := rfl

@[simp] theorem State.finalizeAndSend_faults (tx : List Byte) (s : State) : (s.finalizeAndSend tx).faults = s.faults := rfl

@[simp] theorem State.reqByte_faults (payload : List Byte) (k : Nat) (s : State) :
    (s.reqByte payload k).2.faults = s.faults := by
  rw [State.reqByte_snd]

/-- The operand fetch gives the byte of the request, or the next draw (R90). -/
theorem State.reqByte_fst (payload : List Byte) (k : Nat) (s : State) :
    (s.reqByte payload k).1 = requestByte payload k (Config.drawU8 s.draws) := by
  by_cases h : k < payload.length
  · simp [State.reqByte_of_lt s h, requestByte, h]
  · simp [State.reqByte_of_le s (Nat.not_lt.1 h), requestByte, h]

@[simp] theorem State.applyFrequency_faults (f : Word) (s : State) : (s.applyFrequency f).faults = s.faults := by
  unfold State.applyFrequency
  split <;> rfl

@[simp] theorem State.applyMode_faults (m : Byte) (s : State) : (s.applyMode m).faults = s.faults := by
  unfold State.applyMode
  cases modeClearPit m <;> rfl

/-- R96 (D9): the guard raises InvalidChannel at 48 and above. -/
theorem State.guardChannel_faults (ch : Byte) (s : State) :
    (s.guardChannel ch).faults = if 48 ≤ ch.toNat then s.faults.add .invalidChannel else s.faults := by
  unfold State.guardChannel
  split
  · next h => rw [if_neg (Nat.not_le.2 h)]; rfl
  · next h => rw [if_pos (Nat.not_lt.1 h)]; rfl

/-- Respond raises no fault (R71). -/
theorem respondIf_next_faults {go : Bool} {p : Params} {id : CmdId} {payload : List Byte} {s t : State}
    (h : respondIf go p id payload s = .next t) : t.faults = s.faults := by
  rw [respondIf_next h]
  cases go <;> rfl

/-- R104: the one fault a handler raises is InvalidChannel, and only for a rejected SET_CHANNEL. -/
theorem exec_next_faults {i : Instr} {s t : State} (h : exec i s = .next t) :
    t.faults = if rejectedChannel i s then s.faults.add .invalidChannel else s.faults := by
  cases i with
  | getSettings flag payload => exact respondIf_next_faults h
  | setPower flag payload => simpa [rejectedChannel] using respondIf_next_faults h
  | setChannel flag payload =>
    simpa [State.guardChannel_faults, State.reqByte_fst, rejectedChannel] using respondIf_next_faults h
  | setFrequency flag payload => simpa [rejectedChannel] using respondIf_next_faults h
  | setMode flag payload => simpa [rejectedChannel] using respondIf_next_faults h

/-- No handler touches the RxOverflow flag. -/
theorem exec_next_rxOverflow {i : Instr} {s t : State} (h : exec i s = .next t) :
    t.faults.rxOverflow = s.faults.rxOverflow := by
  rw [exec_next_faults h]
  split <;> rfl

/-! ## The router and the framing rules -/

theorem dispatch_next_rxOverflow {cmd : Byte} {payload : List Byte} {s t : State}
    (h : dispatch cmd payload s = .next t) : t.faults.rxOverflow = s.faults.rxOverflow := by
  obtain ⟨i, u, -, hexec, rfl⟩ | ⟨-, rfl⟩ := dispatch_next_cases h
  · simpa using exec_next_rxOverflow hexec
  · rfl

/-- The checksum byte is not stored (D13), so its step cannot overflow the buffer. -/
theorem onChecksum_next_rxOverflow {b : Byte} {s t : State} (h : onChecksum b s = .next t) :
    t.faults.rxOverflow = s.faults.rxOverflow := by
  obtain ⟨-, cmd, len, payload, -, ⟨-, u, hdispatch, rfl⟩ | ⟨-, rfl⟩⟩ := onChecksum_next_cases h
  · simpa using dispatch_next_rxOverflow hdispatch
  · rfl

/-- With room, a Store followed by a rule that raises no fault raises none (R76). -/
theorem State.storeThen_faults {s : State} (b : Byte) {f : State → State} (room : s.idx.toNat < s.params.rxCap)
    (hf : ∀ u, (f u).faults = u.faults) : (s.storeThen b f).faults = s.faults := by
  rw [State.storeThen_of_lt b f room, hf]

section
variable {s : State} (b : Byte) (room : s.idx.toNat < s.params.rxCap)
include room

theorem onSync_faults : (onSync b s).faults = s.faults := by
  unfold onSync
  split
  · exact State.storeThen_faults b room fun _ => rfl
  · rfl

theorem onMarker_faults : (onMarker b s).faults = s.faults := by
  unfold onMarker
  split
  · exact State.storeThen_faults b room fun _ => rfl
  · rfl

theorem onCommand_faults : (onCommand b s).faults = s.faults :=
  State.storeThen_faults b room fun _ => rfl

theorem onLength_faults : (onLength b s).faults = s.faults :=
  State.storeThen_faults b room fun _ => by split <;> rfl

theorem onPayload_faults : (onPayload b s).faults = s.faults :=
  State.storeThen_faults b room fun _ => by split <;> rfl

end

/-- R75: a byte's step leaves the RxOverflow flag alone if there is room in every state that stores the byte. -/
theorem stepByte_next_rxOverflow {b : Byte} {s t : State}
    (room : s.fsm ≠ .awaitChecksum → s.idx.toNat < s.params.rxCap) (h : stepByte b s = .next t) :
    t.faults.rxOverflow = s.faults.rxOverflow := by
  obtain ⟨hs, rfl⟩ | ⟨hs, rfl⟩ | ⟨hs, rfl⟩ | ⟨hs, rfl⟩ | ⟨hs, rfl⟩ | ⟨-, hcheck⟩ := stepByte_next_cases h
  · rw [onSync_faults b (room (by simp [hs]))]
  · rw [onMarker_faults b (room (by simp [hs]))]
  · rw [onCommand_faults b (room (by simp [hs]))]
  · rw [onLength_faults b (room (by simp [hs]))]
  · rw [onPayload_faults b (room (by simp [hs]))]
  · exact onChecksum_next_rxOverflow hcheck

/-! ## A buffer of 259 bytes -/

/-- R85: before the checksum byte, `idx` is below 4 + 255, the size of the longest frame without its checksum byte. -/
theorem State.IndexFits.idx_lt_259 {s : State} (index : s.IndexFits) (storing : s.fsm ≠ .awaitChecksum) :
    s.idx.toNat < 259 := by
  unfold State.IndexFits at index
  cases hfsm : s.fsm <;> simp only [hfsm] at index storing
  case awaitPayload =>
    obtain ⟨-, below, expected, -⟩ := index
    have len := (s.rxbuf.read 3).isLt
    omega
  case awaitChecksum => exact absurd rfl storing
  all_goals omega

/-- Settles O50: the invariants keep `idx` below 259 in every state that stores a byte, so Store always has room. -/
theorem defaultBufferNeverOverflows : Obligations.DefaultBufferNeverOverflows := by
  intro s t inv cap hstep
  obtain ⟨-, rfl⟩ | ⟨w, rest, -, rfl⟩ | ⟨b, rest, -, hbyte⟩ := step_next_cases hstep
  · rfl
  · rfl
  · exact stepByte_next_rxOverflow (s := { s with input := rest })
      (fun storing => Nat.lt_of_lt_of_le (inv.index.idx_lt_259 storing) cap) hbyte

end Sys2Proof.Machine
end

section
/-! SUPPORT. The handlers of R94 to R98 as state equations: what each writes before it answers, what it answers, and the
statements that follow for every handler. -/

namespace Sys2Proof.Machine

/-! ## The operands -/

/-- The first request byte of a handler (R90). -/
def State.operandByte (payload : List Byte) (s : State) : Byte := requestByte payload 0 (Config.drawU8 s.draws)

/-- The two request bytes of SET_FREQUENCY (R56, R90). -/
def State.operandWord (payload : List Byte) (s : State) : Word :=
  be16 (s.operandByte payload) (requestByte payload 1 (Config.drawU8 (s.draws + (1 - payload.length))))

/-- A handler's operand fetch: the byte, and the draw counter advanced if the request is empty. -/
theorem State.reqByte_zero (payload : List Byte) (s : State) :
    s.reqByte payload 0 = (s.operandByte payload, { s with draws := s.draws + (1 - payload.length) }) := by
  refine Prod.ext (State.reqByte_fst payload 0 s) ?_
  rw [State.reqByte_snd]
  congr 2
  split <;> omega

/-- SET_FREQUENCY's second operand fetch, after the first. -/
theorem State.reqByte_one (payload : List Byte) (s : State) :
    { s with draws := s.draws + (1 - payload.length) }.reqByte payload 1 =
      (requestByte payload 1 (Config.drawU8 (s.draws + (1 - payload.length))),
        { s with draws := s.draws + (2 - payload.length) }) := by
  refine Prod.ext (State.reqByte_fst payload 1 _) ?_
  rw [State.reqByte_snd]
  congr 1
  show s.draws + (1 - payload.length) + _ = _
  split <;> omega

/-! ## What a handler writes, and what it answers -/

/-- The state a handler hands to Respond: its rule up to the response (R94 to R98). -/
def State.handled (i : Instr) (s : State) : State :=
  match i with
  | .getSettings _ _ => s
  | .setPower _ payload => (s.reqByte payload 0).2.applyPower (powerValue (s.reqByte payload 0).1)
  | .setChannel _ payload => (s.reqByte payload 0).2.guardChannel (s.reqByte payload 0).1
  | .setFrequency _ payload =>
    ((s.reqByte payload 0).2.reqByte payload 1).2.applyFrequency
      (be16 (s.reqByte payload 0).1 ((s.reqByte payload 0).2.reqByte payload 1).1)
  | .setMode _ payload => (s.reqByte payload 0).2.applyMode (s.reqByte payload 0).1

/-- The payload of a handler's response (R94 to R98). -/
def State.answer (i : Instr) (s : State) : List Byte :=
  match i with
  | .getSettings _ _ => settingsReport s
  | .setPower _ payload => [(s.reqByte payload 0).1, Config.reservedByte]
  | .setChannel _ payload => [(s.reqByte payload 0).1, Config.reservedByte]
  | .setFrequency _ _ =>
    [hiByte (s.handled i).settings.frequencyMhz, loByte (s.handled i).settings.frequencyMhz, Config.reservedByte]
  | .setMode _ _ => [modeResponseByte (s.handled i).pitMode (s.handled i).settings, Config.reservedByte]

/-- The events of a handler's response: none for a rejected SET_CHANNEL (R91), else TxBytes and Flush (R70). -/
def State.responseEvents (i : Instr) (s : State) : List Event :=
  if rejectedChannel i s then [] else [.txBytes (signTx (responseTx (i.cmdId s.params.cmdId) (s.answer i))), .flush]

/-- Whether a channel is rejected depends on the state only through the draw counter. -/
theorem rejectedChannel_congr (i : Instr) {s t : State} (h : s.draws = t.draws) :
    rejectedChannel i s = rejectedChannel i t := by
  cases i <;> simp only [rejectedChannel, h]

/-- Every handler is its writes and then its response. -/
theorem exec_eq_respondIf (i : Instr) (s : State) :
    exec i s = respondIf (!rejectedChannel i s) s.params (i.cmdId s.params.cmdId) (s.answer i) (s.handled i) := by
  cases i with
  | getSettings flag payload => rfl
  | setPower flag payload => rfl
  | setChannel flag payload =>
    have accepts : (!rejectedChannel (.setChannel flag payload) s) =
        decide ((s.reqByte payload 0).1.toNat < Config.numChannels) := by
      simp [rejectedChannel, State.reqByte_fst, Config.numChannels, ← decide_not]
    rw [accepts]
    rfl
  | setFrequency flag payload => rfl
  | setMode flag payload => rfl

/-- Respond ends in a next state exactly when a response that is sent fits (R72). -/
theorem respondIf_next_iff {go : Bool} {p : Params} {id : CmdId} {payload : List Byte} {s t : State} :
    respondIf go p id payload s = .next t ↔
      (go = true → 5 + payload.length ≤ p.txCap) ∧
      t = if go then s.finalizeAndSend (responseTx id payload) else s := by
  refine ⟨fun h => ⟨fun hgo => ?_, respondIf_next h⟩, fun ⟨fits, ht⟩ => ?_⟩
  · by_contra hover
    simp [respondIf, fitsTx, hover, hgo] at h
  · subst ht
    cases go
    · simp [respondIf]
    · exact respondIf_of_fits (fits rfl)

/-- A handler ends in a next state exactly when its response fits, and that state is its writes with the response's events
added to the trace. -/
theorem exec_next_iff {i : Instr} {s t : State} :
    exec i s = .next t ↔
      (rejectedChannel i s = false → 5 + (s.answer i).length ≤ s.params.txCap) ∧
      t = { s.handled i with trace := (s.handled i).trace ++ s.responseEvents i } := by
  rw [exec_eq_respondIf, respondIf_next_iff]
  cases hr : rejectedChannel i s <;> simp [State.responseEvents, State.finalizeAndSend, State.emit, hr]

/-- The state a handler ends in (R92). -/
theorem exec_next_eq {i : Instr} {s t : State} (h : exec i s = .next t) :
    t = { s.handled i with trace := (s.handled i).trace ++ s.responseEvents i } :=
  (exec_next_iff.1 h).2

/-! ## The writes, command by command -/

/-- R95. -/
theorem State.handled_setPower (flag : Bool) (payload : List Byte) (s : State) :
    s.handled (.setPower flag payload) =
      { s with
        settings := { s.settings with rawPowerDbm := powerValue (s.operandByte payload), dirty := true }
        draws := s.draws + (1 - payload.length)
        trace := s.trace ++ [.setPowerDbm (powerValue (s.operandByte payload)), .markDirty] } := by
  simp [State.handled, State.reqByte_zero, State.applyPower, State.markDirty, State.emit]

/-- R96, a channel of the table. -/
theorem State.handled_setChannel_of_lt (flag : Bool) {payload : List Byte} {s : State}
    (h : (s.operandByte payload).toNat < 48) :
    s.handled (.setChannel flag payload) =
      { s with
        settings := { s.settings with
          channel := s.operandByte payload, frequencyMhz := freqForChannel s.params.freqTable ⟨_, h⟩
          freqIndep := false, dirty := true }
        draws := s.draws + (1 - payload.length)
        trace := s.trace ++ [.tune (freqForChannel s.params.freqTable ⟨_, h⟩), .markDirty] } := by
  simp [State.handled, State.reqByte_zero, State.guardChannel, h, State.applyChannel, State.markDirty, State.emit]

/-- R96, a rejected channel (D9). -/
theorem State.handled_setChannel_of_le (flag : Bool) {payload : List Byte} {s : State}
    (h : 48 ≤ (s.operandByte payload).toNat) :
    s.handled (.setChannel flag payload) =
      { s with
        faults := s.faults.add .invalidChannel, drops := s.drops ++ [.invalidChannel]
        draws := s.draws + (1 - payload.length) } := by
  simp [State.handled, State.reqByte_zero, State.guardChannel, Nat.not_lt.2 h, State.raiseFault, State.noteDrop]

/-- R97, the legacy path (D17). -/
theorem State.handled_setFrequency_of_legacy (flag : Bool) {payload : List Byte} {s : State}
    (h : isLegacyFrequency (s.operandWord payload) = true) :
    s.handled (.setFrequency flag payload) = { s with draws := s.draws + (2 - payload.length) } := by
  unfold State.operandWord at h
  simp [State.handled, State.reqByte_zero, State.reqByte_one, State.applyFrequency, h]

/-- R97, the normal path. -/
theorem State.handled_setFrequency_of_normal (flag : Bool) {payload : List Byte} {s : State}
    (h : isLegacyFrequency (s.operandWord payload) = false) :
    s.handled (.setFrequency flag payload) =
      { s with
        settings := { s.settings with frequencyMhz := s.operandWord payload, freqIndep := true, dirty := true }
        draws := s.draws + (2 - payload.length)
        trace := s.trace ++ [.tune (s.operandWord payload), .markDirty] } := by
  unfold State.operandWord at h ⊢
  simp [State.handled, State.reqByte_zero, State.reqByte_one, State.applyFrequency, h, State.markDirty, State.emit]

/-- R98. -/
theorem State.handled_setMode (flag : Bool) (payload : List Byte) (s : State) :
    s.handled (.setMode flag payload) =
      { s with
        pitMode := s.pitMode && !modeClearPit (s.operandByte payload)
        settings := { s.settings with
          pitInRange := modePitInRange (s.operandByte payload), pitOutRange := modePitOutRange (s.operandByte payload)
          unlocked := modeUnlocked (s.operandByte payload), dirty := true }
        draws := s.draws + (1 - payload.length)
        trace := s.trace ++ (if modeClearPit (s.operandByte payload) then [.setPowerDbm s.settings.rawPowerDbm] else []) ++
          [.markDirty] } := by
  cases hclear : modeClearPit (s.operandByte payload) <;>
    simp [State.handled, State.reqByte_zero, State.applyMode, hclear, State.markDirty, State.emit]

/-! ## Handlers and the parser -/

/-- `s` with the parser registers, the receive buffer and the pending input of `p`. -/
def State.withParserOf (s p : State) : State :=
  { s with fsm := p.fsm, idx := p.idx, expected := p.expected, rxbuf := p.rxbuf, input := p.input }

/-- R92: a handler neither reads nor writes the parser. -/
theorem State.handled_withParserOf (p : State) (i : Instr) (s : State) :
    (s.withParserOf p).handled i = (s.handled i).withParserOf p := by
  cases i with
  | getSettings flag payload => rfl
  | setPower flag payload => rw [State.handled_setPower, State.handled_setPower]; rfl
  | setChannel flag payload =>
    by_cases h : (s.operandByte payload).toNat < 48
    · rw [State.handled_setChannel_of_lt flag h, State.handled_setChannel_of_lt (s := s.withParserOf p) flag h]; rfl
    · rw [State.handled_setChannel_of_le flag (Nat.not_lt.1 h),
        State.handled_setChannel_of_le (s := s.withParserOf p) flag (Nat.not_lt.1 h)]
      rfl
  | setFrequency flag payload =>
    cases h : isLegacyFrequency (s.operandWord payload)
    · rw [State.handled_setFrequency_of_normal flag h,
        State.handled_setFrequency_of_normal (s := s.withParserOf p) flag h]
      rfl
    · rw [State.handled_setFrequency_of_legacy flag h,
        State.handled_setFrequency_of_legacy (s := s.withParserOf p) flag h]
      rfl
  | setMode flag payload => rw [State.handled_setMode, State.handled_setMode]; rfl

theorem State.answer_withParserOf (p : State) (i : Instr) (s : State) : (s.withParserOf p).answer i = s.answer i := by
  cases i with
  | getSettings flag payload => rfl
  | setPower flag payload => simp only [State.answer, State.reqByte_zero]; rfl
  | setChannel flag payload => simp only [State.answer, State.reqByte_zero]; rfl
  | setFrequency flag payload => rw [State.answer, State.handled_withParserOf]; rfl
  | setMode flag payload => rw [State.answer, State.handled_withParserOf]; rfl

theorem State.responseEvents_withParserOf (p : State) (i : Instr) (s : State) :
    (s.withParserOf p).responseEvents i = s.responseEvents i := by
  unfold State.responseEvents
  rw [State.answer_withParserOf, rejectedChannel_congr i (s := s.withParserOf p) (t := s) rfl]
  rfl

/-- R92: with another parser, a handler does the same and leaves that parser. -/
theorem exec_withParserOf (p : State) {i : Instr} {s t : State} (h : exec i s = .next t) :
    exec i (s.withParserOf p) = .next (t.withParserOf p) := by
  obtain ⟨fits, rfl⟩ := exec_next_iff.1 h
  refine exec_next_iff.2 ⟨?_, ?_⟩
  · rw [State.answer_withParserOf]
    exact fits
  · rw [State.handled_withParserOf, State.responseEvents_withParserOf]
    rfl

/-- R92: a handler leaves the parser as it was. -/
theorem exec_next_parser {i : Instr} {s t : State} (h : exec i s = .next t) :
    t.fsm = s.fsm ∧ t.idx = s.idx ∧ t.expected = s.expected ∧ t.rxbuf = s.rxbuf ∧ t.input = s.input := by
  have eq : t = t.withParserOf s := Host.Outcome.next.inj (h.symm.trans (exec_withParserOf s h))
  rw [eq]
  exact ⟨rfl, rfl, rfl, rfl, rfl⟩

/-! ## What every handler keeps -/

/-- What a handler writes into S is in range (R23, R25, R26): each field is as before or within its bound. -/
structure WrittenInRange (table : Vector Word 48) (old new : Settings) : Prop where
  channel   : new.channel = old.channel ∨ new.channel.toNat < 48
  power     : new.rawPowerDbm = old.rawPowerDbm ∨ new.rawPowerDbm.toNat < 128
  frequency : new.frequencyMhz = old.frequencyMhz ∨ new.frequencyMhz.toNat < 0x4000 ∨
    ∃ ch : Fin 48, new.frequencyMhz = table[ch]

theorem WrittenInRange.of_eq {table : Vector Word 48} {old new : Settings} (h : new = old) :
    WrittenInRange table old new := by
  subst h
  exact ⟨.inl rfl, .inl rfl, .inl rfl⟩

/-- What holds between the states before and after any handler. -/
structure HandlerKeeps (s t : State) : Prop where
  params     : t.params = s.params
  powerIndex : t.settings.powerIndex = s.settings.powerIndex
  dirty      : s.settings.dirty = true → t.settings.dirty = true
  pitMode    : t.pitMode = true → s.pitMode = true
  trace      : s.trace <+: t.trace
  inRange    : WrittenInRange s.params.freqTable s.settings t.settings

theorem powerValue_lt (p : Byte) : (powerValue p).toNat < 128 := by
  have le : (powerValue p).toNat ≤ 127 := by
    rw [powerValue, BitVec.toNat_and]
    exact Nat.and_le_right
  omega

/-- R56: with bits 14 and 15 clear a frequency is below 0x4000. -/
theorem toNat_lt_of_not_legacy {f : Word} (h : isLegacyFrequency f = false) : f.toNat < 0x4000 := by
  obtain ⟨bit14, bit15⟩ := Bool.or_eq_false_iff.1 h
  refine Nat.lt_pow_two_of_testBit (n := 14) f.toNat fun k hk => ?_
  rcases (by omega : k = 14 ∨ k = 15 ∨ 16 ≤ k) with rfl | rfl | hhigh
  · exact bit14
  · exact bit15
  · exact BitVec.getLsbD_of_ge f k hhigh

theorem State.handled_keeps (i : Instr) (s : State) : HandlerKeeps s (s.handled i) := by
  cases i with
  | getSettings flag payload => exact ⟨rfl, rfl, id, id, List.prefix_rfl, .of_eq rfl⟩
  | setPower flag payload =>
    rw [State.handled_setPower]
    exact ⟨rfl, rfl, fun _ => rfl, id, List.prefix_append _ _, .inl rfl, .inr (powerValue_lt _), .inl rfl⟩
  | setChannel flag payload =>
    by_cases h : (s.operandByte payload).toNat < 48
    · rw [State.handled_setChannel_of_lt flag h]
      exact ⟨rfl, rfl, fun _ => rfl, id, List.prefix_append _ _, .inr h, .inl rfl, .inr (.inr ⟨_, rfl⟩)⟩
    · rw [State.handled_setChannel_of_le flag (Nat.not_lt.1 h)]
      exact ⟨rfl, rfl, id, id, List.prefix_rfl, .of_eq rfl⟩
  | setFrequency flag payload =>
    cases h : isLegacyFrequency (s.operandWord payload)
    · rw [State.handled_setFrequency_of_normal flag h]
      exact ⟨rfl, rfl, fun _ => rfl, id, List.prefix_append _ _, .inl rfl, .inl rfl,
        .inr (.inl (toNat_lt_of_not_legacy h))⟩
    · rw [State.handled_setFrequency_of_legacy flag h]
      exact ⟨rfl, rfl, id, id, List.prefix_rfl, .of_eq rfl⟩
  | setMode flag payload =>
    rw [State.handled_setMode]
    refine ⟨rfl, rfl, fun _ => rfl, fun h => (Bool.and_eq_true_iff.1 h).1, ?_, .inl rfl, .inl rfl, .inl rfl⟩
    exact (List.prefix_append _ _).trans (List.prefix_append _ _)

theorem exec_next_keeps {i : Instr} {s t : State} (h : exec i s = .next t) : HandlerKeeps s t := by
  obtain ⟨params, powerIndex, dirty, pitMode, trace, inRange⟩ := s.handled_keeps i
  rw [exec_next_eq h]
  exact ⟨params, powerIndex, dirty, pitMode, trace.trans (List.prefix_append _ _), inRange⟩

/-- Settles O22: the parser and what every handler keeps, and then the rules' "Written" lines command by command. -/
theorem handlersLeaveTheRest : Obligations.HandlersLeaveTheRest := by
  intro i s t h
  have keeps := exec_next_keeps h
  obtain ⟨fsm, idx, expected, rxbuf, input⟩ := exec_next_parser h
  refine ⟨⟨keeps.params, fsm, idx, expected, input, fun a => by rw [rxbuf], keeps.powerIndex⟩, ?_⟩
  rw [exec_next_eq h]
  cases i with
  | getSettings flag payload => exact ⟨rfl, rfl, rfl, rfl, rfl⟩
  | setPower flag payload =>
    rw [State.handled_setPower]
    exact ⟨rfl, rfl, rfl, rfl⟩
  | setChannel flag payload =>
    by_cases inTable : (s.operandByte payload).toNat < 48
    · rw [State.handled_setChannel_of_lt flag inTable]
      exact ⟨rfl, rfl, rfl⟩
    · rw [State.handled_setChannel_of_le flag (Nat.not_lt.1 inTable)]
      exact ⟨rfl, rfl, rfl⟩
  | setFrequency flag payload =>
    cases legacy : isLegacyFrequency (s.operandWord payload)
    · rw [State.handled_setFrequency_of_normal flag legacy]
      exact ⟨rfl, rfl, rfl, rfl⟩
    · rw [State.handled_setFrequency_of_legacy flag legacy]
      exact ⟨rfl, rfl, rfl, rfl⟩
  | setMode flag payload =>
    rw [State.handled_setMode]
    exact ⟨rfl, rfl, rfl⟩

/-! ## The unlocked flag -/

/-- `s` with S.unlocked set to `u`. -/
def State.withUnlocked (u : Bool) (s : State) : State := { s with settings := { s.settings with unlocked := u } }

/-- R110: a handler's writes are the same but for the flag itself. -/
theorem State.handled_withUnlocked (u : Bool) (i : Instr) (s : State) :
    ∃ v, (s.withUnlocked u).handled i = (s.handled i).withUnlocked v := by
  cases i with
  | getSettings flag payload => exact ⟨u, rfl⟩
  | setPower flag payload =>
    refine ⟨u, ?_⟩
    rw [State.handled_setPower, State.handled_setPower]
    rfl
  | setChannel flag payload =>
    refine ⟨u, ?_⟩
    by_cases h : (s.operandByte payload).toNat < 48
    · rw [State.handled_setChannel_of_lt flag h, State.handled_setChannel_of_lt (s := s.withUnlocked u) flag h]
      rfl
    · rw [State.handled_setChannel_of_le flag (Nat.not_lt.1 h),
        State.handled_setChannel_of_le (s := s.withUnlocked u) flag (Nat.not_lt.1 h)]
      rfl
  | setFrequency flag payload =>
    refine ⟨u, ?_⟩
    cases h : isLegacyFrequency (s.operandWord payload)
    · rw [State.handled_setFrequency_of_normal flag h,
        State.handled_setFrequency_of_normal (s := s.withUnlocked u) flag h]
      rfl
    · rw [State.handled_setFrequency_of_legacy flag h,
        State.handled_setFrequency_of_legacy (s := s.withUnlocked u) flag h]
      rfl
  | setMode flag payload =>
    refine ⟨modeUnlocked (s.operandByte payload), ?_⟩
    rw [State.handled_setMode, State.handled_setMode]
    rfl

/-- The length of a response's payload depends on the command only (R54). -/
theorem State.length_answer (i : Instr) (s t : State) : (s.answer i).length = (t.answer i).length := by
  cases i <;> rfl

/-- Which events a response has, but for its bytes, depends on the draw counter only. -/
theorem State.responseEvents_withoutBytes (i : Instr) {s t : State} (h : s.draws = t.draws) :
    (s.responseEvents i).map Event.withoutBytes = (t.responseEvents i).map Event.withoutBytes := by
  unfold State.responseEvents
  rw [rejectedChannel_congr i h]
  cases rejectedChannel i t <;> rfl

/-- Settles O24: the flag reaches only the payload of a response, whose length it leaves alone. -/
theorem unlockedGatesNothing : Obligations.UnlockedGatesNothing := by
  intro i s t u h
  obtain ⟨fits, rfl⟩ := exec_next_iff.1 h
  obtain ⟨v, hv⟩ := s.handled_withUnlocked u i
  refine ⟨_, exec_next_iff (s := s.withUnlocked u).2 ⟨?_, rfl⟩, ?_, ?_⟩
  · rw [State.length_answer i _ s, rejectedChannel_congr i (s := s.withUnlocked u) (t := s) rfl]
    exact fits
  · rw [hv]
    rfl
  · rw [hv]
    simp only [List.map_append]
    rw [State.responseEvents_withoutBytes i (s := s.withUnlocked u) (t := s) rfl]
    rfl

end Sys2Proof.Machine
end

section
/-! SUPPORT. Everything a step can do to what lies outside the parser, and the statements of 10_state.md that follow. -/

namespace Sys2Proof.Machine

/-! ## Quiet steps -/

/-- Nothing outside the parser changes but FAULTS and the drop codes, and of FAULTS at most RxOverflow is added. -/
structure Quiet (s t : State) : Prop where
  params         : t.params = s.params
  settings       : t.settings = s.settings
  pitMode        : t.pitMode = s.pitMode
  trace          : t.trace = s.trace
  invalidChannel : t.faults.invalidChannel = s.faults.invalidChannel
  rxOverflow     : s.faults.rxOverflow = true → t.faults.rxOverflow = true

theorem Quiet.refl (s : State) : Quiet s s := ⟨rfl, rfl, rfl, rfl, rfl, id⟩

theorem Quiet.trans {s t u : State} (h : Quiet s t) (g : Quiet t u) : Quiet s u where
  params := g.params.trans h.params
  settings := g.settings.trans h.settings
  pitMode := g.pitMode.trans h.pitMode
  trace := g.trace.trans h.trace
  invalidChannel := g.invalidChannel.trans h.invalidChannel
  rxOverflow := g.rxOverflow ∘ h.rxOverflow

/-- Store is quiet, and so is what a framing rule does after it (R76). -/
theorem Quiet.storeThen (s : State) (b : Byte) {f : State → State} (hf : ∀ u, Quiet u (f u)) :
    Quiet s (s.storeThen b f) := by
  rcases Nat.lt_or_ge s.idx.toNat s.params.rxCap with room | full
  · rw [State.storeThen_of_lt b f room]
    have stored : Quiet s { s with rxbuf := s.rxbuf.write s.idx.toNat b, idx := s.idx + 1 } :=
      ⟨rfl, rfl, rfl, rfl, rfl, id⟩
    exact stored.trans (hf _)
  · rw [State.storeThen_of_le b f full]
    exact ⟨rfl, rfl, rfl, rfl, rfl, fun _ => rfl⟩

theorem onSync_quiet (b : Byte) (s : State) : Quiet s (onSync b s) := by
  unfold onSync
  split
  · exact .storeThen s b fun _ => ⟨rfl, rfl, rfl, rfl, rfl, id⟩
  · exact ⟨rfl, rfl, rfl, rfl, rfl, id⟩

theorem onMarker_quiet (b : Byte) (s : State) : Quiet s (onMarker b s) := by
  unfold onMarker
  split
  · exact .storeThen s b fun _ => ⟨rfl, rfl, rfl, rfl, rfl, id⟩
  · exact ⟨rfl, rfl, rfl, rfl, rfl, id⟩

theorem onCommand_quiet (b : Byte) (s : State) : Quiet s (onCommand b s) :=
  .storeThen s b fun _ => ⟨rfl, rfl, rfl, rfl, rfl, id⟩

theorem onLength_quiet (b : Byte) (s : State) : Quiet s (onLength b s) :=
  .storeThen s b fun _ => by split <;> exact ⟨rfl, rfl, rfl, rfl, rfl, id⟩

theorem onPayload_quiet (b : Byte) (s : State) : Quiet s (onPayload b s) :=
  .storeThen s b fun _ => by split <;> exact ⟨rfl, rfl, rfl, rfl, rfl, id⟩

/-! ## What a step can do -/

/-- The state in which a frame's handler starts, and in which an unmapped frame is dropped: the checksum byte is taken and
the indicator is on (R87, D15). -/
def State.indicatorOn (rest : List EnvEvent) (s : State) : State := { s with input := rest }.emit (.setIndicator true)

/-- Everything a step can do to what lies outside the parser. -/
inductive StepEffect (s t : State) : Prop
  /-- The environment writes a field of S (R126). -/
  | write (w : SettingsWrite) (rest : List EnvEvent) (input : s.input = .write w :: rest)
      (eq : t = { s with input := rest, settings := envWriteSettings w s.settings })
  /-- No instruction runs and no event is emitted. -/
  | quiet (quiet : Quiet s t)
  /-- A valid frame with an unmapped id (R89). -/
  | unmapped (rest : List EnvEvent) (fsm : s.fsm = .awaitChecksum)
      (eq : t = (((s.indicatorOn rest).noteDrop .unknownCommand).emit (.setIndicator false)).parserReset)
  /-- A valid frame runs its instruction (R82, R87). -/
  | runs (i : Instr) (u : State) (rest : List EnvEvent) (cmd len : Byte) (payload : List Byte)
      (fsm : s.fsm = .awaitChecksum) (input : s.input = .byte (crc8 s.rxBody) :: rest)
      (body : s.rxBody = cmd :: len :: payload) (decoded : decodeBody s.params.cmdId cmd payload = some i)
      (ran : exec i (s.indicatorOn rest) = .next u) (eq : t = (u.emit (.setIndicator false)).parserReset)

/-- The checksum check drops the frame, or the router runs (R82, R87). -/
theorem onChecksum_effect {s t : State} {b : Byte} {rest : List EnvEvent} (fsm : s.fsm = .awaitChecksum)
    (input : s.input = .byte b :: rest) (h : onChecksum b { s with input := rest } = .next t) : StepEffect s t := by
  obtain ⟨-, cmd, len, payload, body, ⟨rfl, v, hdispatch, rfl⟩ | ⟨-, rfl⟩⟩ := onChecksum_next_cases h
  · have body : s.rxBody = cmd :: len :: payload := body
    obtain ⟨i, u, decoded, hexec, rfl⟩ | ⟨-, rfl⟩ := dispatch_next_cases hdispatch
    · exact .runs i u rest cmd len payload fsm (body ▸ input) body decoded hexec rfl
    · exact .unmapped rest fsm rfl
  · exact .quiet ⟨rfl, rfl, rfl, rfl, rfl, id⟩

theorem step_effect {s t : State} (h : step s = .next t) : StepEffect s t := by
  obtain ⟨-, rfl⟩ | ⟨w, rest, input, rfl⟩ | ⟨b, rest, input, hbyte⟩ := step_next_cases h
  · exact .quiet (.refl t)
  · exact .write w rest input rfl
  · have taken : Quiet s { s with input := rest } := ⟨rfl, rfl, rfl, rfl, rfl, id⟩
    obtain ⟨-, rfl⟩ | ⟨-, rfl⟩ | ⟨-, rfl⟩ | ⟨-, rfl⟩ | ⟨-, rfl⟩ | ⟨fsm, hcheck⟩ := stepByte_next_cases hbyte
    · exact .quiet (taken.trans (onSync_quiet b _))
    · exact .quiet (taken.trans (onMarker_quiet b _))
    · exact .quiet (taken.trans (onCommand_quiet b _))
    · exact .quiet (taken.trans (onLength_quiet b _))
    · exact .quiet (taken.trans (onPayload_quiet b _))
    · exact onChecksum_effect fsm input hcheck

/-! ## The statements -/

/-- Settles O53: neither the environment, a quiet step nor a handler writes them. -/
theorem parametersNeverChange : Obligations.ParametersNeverChange := by
  intro s t h
  cases step_effect h with
  | write w rest input eq => rw [eq]
  | quiet quiet => exact quiet.params
  | unmapped rest fsm eq => rw [eq]; rfl
  | runs i u rest cmd len payload fsm input body decoded ran eq =>
    rw [eq]
    exact (exec_next_keeps ran).params

/-- Settles O44: what runs an instruction or drops an unmapped frame awaits a checksum, and both only add events. -/
theorem onlyChecksumStepsAct : Obligations.OnlyChecksumStepsAct := by
  intro s t h
  cases step_effect h with
  | write w rest input eq =>
    rw [eq]
    exact ⟨List.prefix_rfl, fun _ => ⟨rfl, rfl, fun noWrite => absurd input (noWrite w rest)⟩⟩
  | quiet quiet => exact ⟨quiet.trace ▸ List.prefix_rfl, fun _ => ⟨quiet.trace, quiet.pitMode, fun _ => quiet.settings⟩⟩
  | unmapped rest fsm eq =>
    rw [eq]
    exact ⟨(List.prefix_append s.trace _).trans (List.prefix_append _ _), fun other => absurd fsm other⟩
  | runs i u rest cmd len payload fsm input body decoded ran eq =>
    rw [eq]
    have grows : s.trace <+: u.trace := (List.prefix_append _ _).trans (exec_next_keeps ran).trace
    exact ⟨grows.trans (List.prefix_append _ _), fun other => absurd fsm other⟩

/-- A handler changes pit mode only as SET_MODE with bit 2 set, to false (R98). -/
theorem exec_next_pitMode {i : Instr} {s t : State} (h : exec i s = .next t) (changed : t.pitMode ≠ s.pitMode) :
    t.pitMode = false ∧ ∃ flag payload, i = .setMode flag payload ∧
      (requestByte payload 0 (Config.drawU8 s.draws)).getLsbD 2 = true := by
  have frame := (handlersLeaveTheRest i s t h).2
  cases i with
  | getSettings flag payload => exact absurd frame.2.1 changed
  | setPower flag payload => exact absurd frame.2.1 changed
  | setChannel flag payload => exact absurd frame.2.1 changed
  | setFrequency flag payload => exact absurd frame.2.1 changed
  | setMode flag payload =>
    have value : t.pitMode = (s.pitMode && !modeClearPit (s.operandByte payload)) := by
      rw [exec_next_eq h, State.handled_setMode]
    cases clears : modeClearPit (s.operandByte payload)
    · exact absurd (by rw [value, clears, Bool.not_false, Bool.and_true]) changed
    · exact ⟨by rw [value, clears, Bool.not_true, Bool.and_false], flag, payload, rfl, clears⟩

/-- Settles O45: only a handler writes pit mode at all, and SET_MODE only clears it. -/
theorem pitModeIsOnlyEverCleared : Obligations.PitModeIsOnlyEverCleared := by
  refine ⟨fun s t h on => ?_, fun i s t => exec_next_pitMode⟩
  cases step_effect h with
  | write w rest input eq => rw [eq] at on; exact on
  | quiet quiet => exact quiet.pitMode ▸ on
  | unmapped rest fsm eq => rw [eq] at on; exact on
  | runs i u rest cmd len payload fsm input body decoded ran eq =>
    rw [eq] at on
    exact (exec_next_keeps ran).pitMode on

/-- Settles O46: the block never writes the field, and the environment only in a write of it. -/
theorem powerIndexOnlyFromEnvironment : Obligations.PowerIndexOnlyFromEnvironment := by
  intro s t h changed
  cases step_effect h with
  | write w rest input eq =>
    subst eq
    cases w with
    | powerIndex v => exact ⟨v, rest, input, rfl⟩
    | _ => exact absurd rfl changed
  | quiet quiet => exact absurd (by rw [quiet.settings]) changed
  | unmapped rest fsm eq => exact absurd (by rw [eq]; rfl) changed
  | runs i u rest cmd len payload fsm input body decoded ran eq =>
    exact absurd (by rw [eq]; exact (exec_next_keeps ran).powerIndex) changed

/-- Settles O47: the block never clears the flag, and the environment only in a write of false to it. -/
theorem dirtyIsClearedOnlyByEnvironment : Obligations.DirtyIsClearedOnlyByEnvironment := by
  intro s t h before after
  have kept (keeps : s.settings.dirty = true → t.settings.dirty = true) : False :=
    Bool.false_ne_true (after.symm.trans (keeps before))
  cases step_effect h with
  | write w rest input eq =>
    subst eq
    cases w with
    | dirty v =>
      have cleared : v = false := after
      exact ⟨rest, cleared ▸ input⟩
    | _ => exact (kept id).elim
  | quiet quiet => exact (kept (by rw [quiet.settings]; exact id)).elim
  | unmapped rest fsm eq => exact (kept (by rw [eq]; exact id)).elim
  | runs i u rest cmd len payload fsm input body decoded ran eq =>
    exact (kept (by rw [eq]; exact (exec_next_keeps ran).dirty)).elim

/-- Settles O48: without an environment write only a handler writes S, and each handler writes in range. -/
theorem blockWritesSettingsInRange : Obligations.BlockWritesSettingsInRange := by
  intro s t h noWrite
  have inRange : WrittenInRange s.params.freqTable s.settings t.settings := by
    cases step_effect h with
    | write w rest input eq => exact absurd input (noWrite w rest)
    | quiet quiet => exact .of_eq quiet.settings
    | unmapped rest fsm eq => exact .of_eq (by rw [eq]; rfl)
    | runs i u rest cmd len payload fsm input body decoded ran eq =>
      rw [eq]
      exact (exec_next_keeps ran).inRange
  exact ⟨inRange.channel, inRange.power, inRange.frequency⟩

/-! ## The fault record -/

/-- A rejected SET_CHANNEL adds InvalidChannel; no other handler adds a fault (D9). -/
theorem exec_next_invalidChannel {i : Instr} {s t : State} (h : exec i s = .next t)
    (after : t.faults.invalidChannel = true) (before : s.faults.invalidChannel = false) :
    rejectedChannel i s = true := by
  by_contra accepted
  rw [exec_next_faults h, if_neg accepted, before] at after
  exact Bool.false_ne_true after

theorem exec_next_faults_sticky {i : Instr} {s t : State} {k : FaultKind} (h : exec i s = .next t)
    (held : s.faults.has k = true) : t.faults.has k = true := by
  rw [exec_next_faults h]
  split
  · rw [FaultRecord.has_add, held, ite_self]
  · exact held

theorem step_faults_sticky {s t : State} {k : FaultKind} (h : step s = .next t) (held : s.faults.has k = true) :
    t.faults.has k = true := by
  cases step_effect h with
  | write w rest input eq => rw [eq]; exact held
  | quiet quiet =>
    cases k with
    | invalidChannel => exact quiet.invalidChannel.trans held
    | rxOverflow => exact quiet.rxOverflow held
  | unmapped rest fsm eq => rw [eq]; exact held
  | runs i u rest cmd len payload fsm input body decoded ran eq =>
    subst eq
    exact exec_next_faults_sticky (t := u) ran held

/-- R104: a step adds InvalidChannel only by running a rejected SET_CHANNEL. -/
theorem step_invalidChannel {s t : State} (h : step s = .next t) (after : t.faults.invalidChannel = true)
    (before : s.faults.invalidChannel = false) :
    s.fsm = .awaitChecksum ∧ ∃ (rest : List EnvEvent) (cmd len : Byte) (payload : List Byte) (i : Instr),
      s.input = .byte (crc8 s.rxBody) :: rest ∧ s.rxBody = cmd :: len :: payload ∧
      decodeBody s.params.cmdId cmd payload = some i ∧ rejectedChannel i s = true := by
  have same (keeps : t.faults.invalidChannel = s.faults.invalidChannel) : False :=
    Bool.false_ne_true (before.symm.trans (keeps.symm.trans after))
  cases step_effect h with
  | write w rest input eq => exact (same (by rw [eq])).elim
  | quiet quiet => exact (same quiet.invalidChannel).elim
  | unmapped rest fsm eq => exact (same (by rw [eq]; rfl)).elim
  | runs i u rest cmd len payload fsm input body decoded ran eq =>
    subst eq
    have rejected := exec_next_invalidChannel ran after before
    exact ⟨fsm, rest, cmd, len, payload, i, input, body, decoded, rejectedChannel_congr i (t := s) rfl ▸ rejected⟩

/-- R105: a byte's step adds RxOverflow only by storing the byte in a full buffer (D11). -/
theorem stepByte_rxOverflow {s t : State} {b : Byte} (h : stepByte b s = .next t)
    (changed : t.faults.rxOverflow ≠ s.faults.rxOverflow) :
    s.params.rxCap ≤ s.idx.toNat ∧ s.fsm ≠ .awaitChecksum ∧ (s.fsm = .awaitSync → b = 0xAA) ∧
      (s.fsm = .awaitMarker → b = 0x55) := by
  have fullAndStoring : ¬(s.fsm ≠ .awaitChecksum → s.idx.toNat < s.params.rxCap) :=
    fun room => changed (stepByte_next_rxOverflow room h)
  obtain ⟨storing, full⟩ := Classical.not_imp.1 fullAndStoring
  refine ⟨Nat.not_lt.1 full, storing, fun fsm => ?_, fun fsm => ?_⟩
  · by_contra other
    rw [stepByte_awaitSync fsm, onSync, if_neg (show b ≠ Config.sync from other)] at h
    exact changed (by rw [← Host.Outcome.next.inj h]; rfl)
  · by_contra other
    rw [stepByte_awaitMarker fsm, onMarker, if_neg (show b ≠ Config.marker from other)] at h
    exact changed (by rw [← Host.Outcome.next.inj h]; rfl)

theorem step_rxOverflow {s t : State} (h : step s = .next t) (after : t.faults.rxOverflow = true)
    (before : s.faults.rxOverflow = false) :
    s.params.rxCap ≤ s.idx.toNat ∧ s.fsm ≠ .awaitChecksum ∧ ∃ (b : Byte) (rest : List EnvEvent),
      s.input = .byte b :: rest ∧ (s.fsm = .awaitSync → b = 0xAA) ∧ (s.fsm = .awaitMarker → b = 0x55) := by
  have changed : t.faults.rxOverflow ≠ s.faults.rxOverflow := by simp [after, before]
  obtain ⟨-, rfl⟩ | ⟨w, rest, -, rfl⟩ | ⟨b, rest, input, hbyte⟩ := step_next_cases h
  · exact absurd rfl changed
  · exact absurd rfl changed
  · obtain ⟨full, storing, sync, marker⟩ := stepByte_rxOverflow hbyte changed
    exact ⟨full, storing, b, rest, input, sync, marker⟩

/-- Settles O49: stickiness, and the origin of each kind, of a handler and of a step. -/
theorem faultsAreSticky : Obligations.FaultsAreSticky :=
  ⟨fun _ _ _ => step_faults_sticky, fun _ _ _ => exec_next_invalidChannel, fun _ _ => step_invalidChannel,
    fun _ _ => step_rxOverflow⟩

/-! ## The environment's moves -/

/-- A settings write is a step of its own (R126). -/
theorem step_of_write {s : State} {w : SettingsWrite} {rest : List EnvEvent} (h : s.input = .write w :: rest) :
    step s = .next { s with input := rest, settings := envWriteSettings w s.settings } := by
  simp [step, move, h]

/-- With nothing pending the block holds its state (R119; log 1). -/
theorem step_of_nil {s : State} (h : s.input = []) : step s = .next s := by
  simp [step, move, h]

/-- Settles O35: the two moves that deliver no byte. -/
theorem environmentMovesBetweenSteps : Obligations.EnvironmentMovesBetweenSteps := by
  refine ⟨fun s w rest h => ?_, fun s h => step_of_nil h⟩
  rw [step_of_write h]
  cases w <;> rfl

end Sys2Proof.Machine
end

section
/-! SUPPORT. Noninterference: what R19 and R20 leave unspecified reaches no output (R73, R129). -/

namespace Sys2Proof.Machine

/-- R20, R73: the checksum covers only bytes below `idx`. -/
theorem Memory.readRange_congr {m m' : Memory} {a n : Nat} (h : ∀ k < a + n, m.read k = m'.read k) :
    m.readRange a n = m'.readRange a n := by
  refine Memory.readRange_eq.2 ⟨Memory.length_readRange m' a n, fun k hk => ?_⟩
  rw [(Memory.readRange_eq.1 rfl).2 k hk, h (a + k) (by omega)]

namespace SameObservable

variable {s s' t : State}

theorem rxBody (h : SameObservable s s') (two : 2 ≤ s.idx.toNat) : s.rxBody = s'.rxBody := by
  unfold State.rxBody
  rw [← h.idx]
  exact Memory.readRange_congr fun k hk => h.rxbuf k (by omega)

theorem observe (h : SameObservable s s') : s.observe = s'.observe := by
  simp only [State.observe, h.trace, h.fsm, h.idx, h.pitMode, h.faults, h.settings]

/-- Outside AwaitPayload `expected` is not compared, so entering such a state loses nothing. -/
theorem setFsm (h : SameObservable s s') {x : Fsm} (hx : x ≠ .awaitPayload) :
    SameObservable { s with fsm := x } { s' with fsm := x } :=
  { h with fsm := rfl, expected := fun payload => absurd payload hx }

theorem parserReset (h : SameObservable s s') : SameObservable s.parserReset s'.parserReset :=
  { h with
    fsm := rfl, idx := rfl, expected := fun payload => (nomatch payload)
    rxbuf := fun a below => absurd below (Nat.not_lt_zero a) }

theorem noteDrop (h : SameObservable s s') (d : DropCode) : SameObservable (s.noteDrop d) (s'.noteDrop d) :=
  { h with drops := congrArg (· ++ [d]) h.drops }

theorem raiseFault (h : SameObservable s s') (k : FaultKind) : SameObservable (s.raiseFault k) (s'.raiseFault k) :=
  { h with faults := congrArg (FaultRecord.add k) h.faults }

/-- Store with room (R76): the byte stored at `idx` is the same, and so is every byte before it. -/
theorem stored (h : SameObservable s s') (b : Byte) :
    SameObservable { s with rxbuf := s.rxbuf.write s.idx.toNat b, idx := s.idx + 1 }
      { s' with rxbuf := s'.rxbuf.write s'.idx.toNat b, idx := s'.idx + 1 } := by
  refine { h with idx := congrArg (· + 1) h.idx, rxbuf := fun a below => ?_ }
  show (s.rxbuf.write s.idx.toNat b).read a = (s'.rxbuf.write s'.idx.toNat b).read a
  rw [Memory.read_write, Memory.read_write, ← h.idx]
  split
  · rfl
  · next other =>
    have below : a < (s.idx + 1).toNat := below
    rw [BitVec.toNat_add] at below
    exact h.rxbuf a (by simp at below; omega)

/-- Store and then a rule that keeps the relation keeps it, whether there is room or not. -/
theorem storeThen (h : SameObservable s s') (b : Byte) {f : State → State}
    (hf : ∀ u u', u.fsm = s.fsm → SameObservable u u' → SameObservable (f u) (f u')) :
    SameObservable (s.storeThen b f) (s'.storeThen b f) := by
  rcases Nat.lt_or_ge s.idx.toNat s.params.rxCap with room | full
  · rw [State.storeThen_of_lt b f room, State.storeThen_of_lt (s := s') b f (h.params ▸ h.idx ▸ room)]
    exact hf _ _ rfl (h.stored b)
  · rw [State.storeThen_of_le b f full, State.storeThen_of_le (s := s') b f (h.params ▸ h.idx ▸ full)]
    exact ((h.raiseFault .rxOverflow).noteDrop .rxOverflow).parserReset

/-! ## The framing rules -/

theorem onSync (h : SameObservable s s') (b : Byte) :
    SameObservable (Machine.onSync b s) (Machine.onSync b s') := by
  unfold Machine.onSync
  split
  · exact h.storeThen b fun _ _ _ g => g.setFsm (by decide)
  · have restarted : SameObservable { s with idx := 0 } { s' with idx := 0 } :=
      { h with idx := rfl, rxbuf := fun a below => absurd below (Nat.not_lt_zero a) }
    exact restarted.noteDrop .desyncSync

theorem onMarker (h : SameObservable s s') (b : Byte) :
    SameObservable (Machine.onMarker b s) (Machine.onMarker b s') := by
  unfold Machine.onMarker
  split
  · exact h.storeThen b fun _ _ _ g => g.setFsm (by decide)
  · exact (h.noteDrop .desyncMarker).parserReset

theorem onCommand (h : SameObservable s s') (b : Byte) :
    SameObservable (Machine.onCommand b s) (Machine.onCommand b s') :=
  h.storeThen b fun _ _ _ g => g.setFsm (by decide)

/-- R80: a nonzero length overwrites the stale `expected` on entry to AwaitPayload. -/
theorem onLength (h : SameObservable s s') (b : Byte) :
    SameObservable (Machine.onLength b s) (Machine.onLength b s') := by
  refine h.storeThen b fun u u' _ g => ?_
  split
  · exact g.setFsm (x := .awaitChecksum) (by decide)
  · exact { g with fsm := rfl, expected := fun _ => congrArg (· + b.setWidth 16) g.idx }

/-- R81: `expected` is read in AwaitPayload, where it is compared. -/
theorem onPayload (h : SameObservable s s') (fsm : s.fsm = .awaitPayload) (b : Byte) :
    SameObservable (Machine.onPayload b s) (Machine.onPayload b s') := by
  refine h.storeThen b fun u u' kept g => ?_
  have expected : u.expected = u'.expected := g.expected (kept.trans fsm)
  by_cases whole : u.idx = u.expected
  · rw [if_pos whole, if_pos (g.idx.symm.trans (whole.trans expected))]
    exact g.setFsm (by decide)
  · rw [if_neg whole, if_neg fun whole' => whole (g.idx.trans (whole'.trans expected.symm))]
    exact g

/-! ## The checksum check -/

/-- Two related states differ in their parsers only. -/
theorem eq_withParserOf (h : SameObservable s s') : s' = s.withParserOf s' := by
  obtain ⟨params, fsm, idx, -, -, pitMode, settings, faults, input, trace, drops, draws⟩ := h
  cases s
  cases s'
  simp_all [State.withParserOf]

/-- R92: a handler runs alike from related states, and its results are related. -/
theorem exec_next (h : SameObservable s s') {i : Instr} (hs : exec i s = .next t) :
    ∃ t', exec i s' = .next t' ∧ SameObservable t t' := by
  obtain ⟨fsm, idx, expected, rxbuf, input⟩ := exec_next_parser hs
  refine ⟨t.withParserOf s', h.eq_withParserOf ▸ exec_withParserOf s' hs, ?_⟩
  exact
    { params := rfl, pitMode := rfl, settings := rfl, faults := rfl, trace := rfl, drops := rfl, draws := rfl
      fsm := fsm.trans h.fsm
      idx := idx.trans h.idx
      input := input.trans h.input
      expected := fun payload => expected.trans (h.expected (fsm ▸ payload))
      rxbuf := fun a below => by rw [rxbuf]; exact h.rxbuf a (idx ▸ below) }

theorem emit (h : SameObservable s s') (e : Event) : SameObservable (s.emit e) (s'.emit e) :=
  { h with trace := congrArg (· ++ [e]) h.trace }

theorem dispatch_next (h : SameObservable s s') {cmd : Byte} {payload : List Byte}
    (hs : dispatch cmd payload s = .next t) : ∃ t', dispatch cmd payload s' = .next t' ∧ SameObservable t t' := by
  obtain ⟨i, u, decoded, hexec, rfl⟩ | ⟨unmapped, rfl⟩ := dispatch_next_cases hs
  · obtain ⟨u', hexec', related⟩ := (h.emit (.setIndicator true)).exec_next hexec
    refine ⟨u'.emit (.setIndicator false), ?_, related.emit _⟩
    rw [h.params] at decoded
    simp [dispatch, decoded, hexec']
  · refine ⟨_, ?_, ((h.emit (.setIndicator true)).noteDrop .unknownCommand).emit (.setIndicator false)⟩
    rw [h.params] at unmapped
    simp [dispatch, unmapped]

theorem onChecksum_next (h : SameObservable s s') {b : Byte} (hs : onChecksum b s = .next t) :
    ∃ t', onChecksum b s' = .next t' ∧ SameObservable t t' := by
  obtain ⟨inRx, cmd, len, payload, body, hcase⟩ := onChecksum_next_cases hs
  have two : 2 ≤ s.idx.toNat := by
    by_contra below
    simp [State.rxBody, show s.idx.toNat - 2 = 0 by omega, Memory.readRange] at body
  have body' : s'.rxBody = cmd :: len :: payload := h.rxBody two ▸ body
  have inRx' : ¬ s'.params.rxCap < s'.idx.toNat := Nat.not_lt.2 (h.params ▸ h.idx ▸ inRx)
  obtain ⟨matched, u, hdispatch, rfl⟩ | ⟨differs, rfl⟩ := hcase
  · obtain ⟨u', hdispatch', related⟩ := h.dispatch_next hdispatch
    exact ⟨u'.parserReset, by simp [onChecksum, inRx', body', checkBody, matched, hdispatch'], related.parserReset⟩
  · exact ⟨_, by simp [onChecksum, inRx', body', checkBody, differs], (h.noteDrop .crcMismatch).parserReset⟩

/-! ## Steps -/

theorem stepByte_next (h : SameObservable s s') {b : Byte} (hs : stepByte b s = .next t) :
    ∃ t', stepByte b s' = .next t' ∧ SameObservable t t' := by
  have fsm' {x : Fsm} (fsm : s.fsm = x) : s'.fsm = x := h.fsm ▸ fsm
  obtain ⟨fsm, rfl⟩ | ⟨fsm, rfl⟩ | ⟨fsm, rfl⟩ | ⟨fsm, rfl⟩ | ⟨fsm, rfl⟩ | ⟨fsm, hcheck⟩ := stepByte_next_cases hs
  · exact ⟨_, stepByte_awaitSync (fsm' fsm), h.onSync b⟩
  · exact ⟨_, stepByte_awaitMarker (fsm' fsm), h.onMarker b⟩
  · exact ⟨_, stepByte_awaitCommand (fsm' fsm), h.onCommand b⟩
  · exact ⟨_, stepByte_awaitLength (fsm' fsm), h.onLength b⟩
  · exact ⟨_, stepByte_awaitPayload (fsm' fsm), h.onPayload fsm b⟩
  · rw [stepByte_awaitChecksum (fsm' fsm)]
    exact h.onChecksum_next hcheck

theorem step_next (h : SameObservable s s') (hs : step s = .next t) :
    ∃ t', step s' = .next t' ∧ SameObservable t t' := by
  obtain ⟨input, rfl⟩ | ⟨w, rest, input, rfl⟩ | ⟨b, rest, input, hbyte⟩ := step_next_cases hs
  · exact ⟨s', step_of_nil (h.input ▸ input), h⟩
  · exact ⟨_, step_of_write (h.input ▸ input), { h with
      input := rfl, settings := congrArg (envWriteSettings w) h.settings }⟩
  · have taken : SameObservable { s with input := rest } { s' with input := rest } := { h with input := rfl }
    rw [step_of_byte (h.input ▸ input)]
    exact taken.stepByte_next hbyte

end SameObservable

/-- Settles O54: every rule keeps the relation, and related states are observed alike. -/
theorem staleBufferIsUnobservable : Obligations.StaleBufferIsUnobservable := by
  intro s s' t h hs
  obtain ⟨t', hs', related⟩ := h.step_next hs
  exact ⟨t', hs', related, related.observe⟩

end Sys2Proof.Machine
end

section
/-! SUPPORT. The decoder on a signed frame (R48 to R52, R66), and the form of the output trace (R43, R70, R74). -/

namespace Sys2Proof

open Sys2Proof.Machine

/-! ## The decoder on a signed frame -/

/-- R50: the command byte is the id with the flag below it. -/
theorem cmdByte_eq_concat (id : CmdId) (flag : Bool) : cmdByte id flag = id.concat flag :=
  BitVec.setWidth_append_eq_shiftLeft_setWidth_or.symm.trans (BitVec.setWidth_eq (id.concat flag))

@[simp] theorem cmdIdOf_cmdByte (id : CmdId) (flag : Bool) : cmdIdOf (cmdByte id flag) = id := by
  rw [cmdByte_eq_concat]
  ext k hk
  simp [cmdIdOf, Nat.add_comm 1 k, BitVec.getLsbD_eq_getElem hk]

@[simp] theorem cmdFlagOf_cmdByte (id : CmdId) (flag : Bool) : cmdFlagOf (cmdByte id flag) = flag := by
  rw [cmdByte_eq_concat, cmdFlagOf, BitVec.getLsbD_concat_zero]

theorem toNat_lenByte {payload : List Byte} (h : payload.length ≤ 255) : (lenByte payload).toNat = payload.length :=
  Nat.mod_eq_of_lt (Nat.lt_succ_of_le h)

/-- A mapped id names an instruction of that command, with the frame's flag and payload (R51). -/
theorem exists_decodeBody_of_cmdIdOf {ids : CmdIds} {cmd : Byte} {i : Instr} (h : cmdIdOf cmd = i.cmdId ids)
    (payload : List Byte) :
    ∃ j, decodeBody ids cmd payload = some j ∧ j.cmdId ids = i.cmdId ids ∧ j.flag = cmdFlagOf cmd := by
  rw [← h]
  unfold decodeBody
  split_ifs with getSettings setPower setChannel setFrequency setMode
  · exact ⟨_, rfl, getSettings.symm, rfl⟩
  · exact ⟨_, rfl, setPower.symm, rfl⟩
  · exact ⟨_, rfl, setChannel.symm, rfl⟩
  · exact ⟨_, rfl, setFrequency.symm, rfl⟩
  · exact ⟨_, rfl, setMode.symm, rfl⟩
  · cases i <;> contradiction

/-- A frame with its true checksum decodes to what its body names, and leaves the bytes after it (R48, R66). -/
theorem decode_frameBytes_append {ids : CmdIds} {cmd : Byte} {payload : List Byte} {i : Instr}
    (length : payload.length ≤ 255) (body : decodeBody ids cmd payload = some i) (rest : List Byte) :
    decode ids (frameBytes cmd payload ++ rest) = .instr i rest := by
  simp [frameBytes, frameWithCrc, decode, decodeFromCmd, toNat_lenByte length, body]

end Sys2Proof

namespace Sys2Proof.Machine

/-! ## The response of a handler -/

theorem State.length_answer_le (i : Instr) (s : State) : (s.answer i).length ≤ 11 := by
  cases i <;> simp [State.answer, settingsReport, Config.powerLevels]

/-- R61, R74: a response decodes whole, as a frame of its own command with framing flag 0 (D3). -/
theorem decode_signTx_responseTx (ids : CmdIds) (i : Instr) {payload : List Byte} (length : payload.length ≤ 255) :
    ∃ j : Instr, decode ids (signTx (responseTx (i.cmdId ids) payload)) = .instr j [] ∧ j.flag = false ∧
      j.cmdId ids = i.cmdId ids := by
  obtain ⟨j, body, cmdId, flag⟩ := exists_decodeBody_of_cmdIdOf (cmdIdOf_cmdByte (i.cmdId ids) false) payload
  refine ⟨j, ?_, flag.trans (cmdFlagOf_cmdByte _ _), cmdId⟩
  rw [signTx_responseTx _ _ length, ← List.append_nil (frameBytes _ _)]
  exact decode_frameBytes_append length body []

theorem isResponseFrame_signTx_responseTx (ids : CmdIds) (i : Instr) {payload : List Byte}
    (length : payload.length ≤ 255) : isResponseFrame ids (signTx (responseTx (i.cmdId ids) payload)) = true := by
  obtain ⟨j, decoded, flag, -⟩ := decode_signTx_responseTx ids i length
  simp [isResponseFrame, decoded, flag]

/-! ## Well-formed traces -/

/-- After a well-formed trace, what is added decides. -/
theorem traceWellFormed_append {ids : CmdIds} {es : List Event} (h : traceWellFormed ids es = true)
    (more : List Event) : traceWellFormed ids (es ++ more) = traceWellFormed ids more := by
  induction es using traceWellFormed.induct with
  | case1 => rfl
  | case2 f es ih =>
    obtain ⟨frame, tail⟩ := Bool.and_eq_true_iff.1 h
    exact (congrArg₂ and frame (ih tail)).trans (Bool.true_and _)
  | case3 f es notFlush => simp [traceWellFormed] at h
  | case4 es => cases h
  | case5 mhz es ih => exact ih h
  | case6 dbm es ih => exact ih h
  | case7 es ih => exact ih h
  | case8 on es ih => exact ih h

/-- R71: a handler's response is one response frame and its Flush, or nothing. -/
theorem State.responseEvents_wellFormed (i : Instr) (s : State) :
    traceWellFormed s.params.cmdId (s.responseEvents i) = true := by
  have frame := isResponseFrame_signTx_responseTx s.params.cmdId i ((s.length_answer_le i).trans (by decide))
  cases rejected : rejectedChannel i s <;> simp [State.responseEvents, rejected, traceWellFormed, frame]

/-- What a handler emits before its response transmits nothing (R94 to R98). -/
theorem State.handled_traceWellFormed {ids : CmdIds} {s : State} (i : Instr) (h : traceWellFormed ids s.trace = true) :
    traceWellFormed ids (s.handled i).trace = true := by
  cases i with
  | getSettings flag payload => exact h
  | setPower flag payload =>
    rw [State.handled_setPower]
    exact traceWellFormed_append h _
  | setChannel flag payload =>
    by_cases inTable : (s.operandByte payload).toNat < 48
    · rw [State.handled_setChannel_of_lt flag inTable]
      exact traceWellFormed_append h _
    · rw [State.handled_setChannel_of_le flag (Nat.not_lt.1 inTable)]
      exact h
  | setFrequency flag payload =>
    cases legacy : isLegacyFrequency (s.operandWord payload)
    · rw [State.handled_setFrequency_of_normal flag legacy]
      exact traceWellFormed_append h _
    · rw [State.handled_setFrequency_of_legacy flag legacy]
      exact h
  | setMode flag payload =>
    rw [State.handled_setMode, List.append_assoc]
    refine (traceWellFormed_append h _).trans ?_
    split <;> rfl

theorem exec_next_traceWellFormed {i : Instr} {s t : State} (h : exec i s = .next t)
    (wf : traceWellFormed s.params.cmdId s.trace = true) : traceWellFormed s.params.cmdId t.trace = true := by
  rw [exec_next_eq h]
  exact (traceWellFormed_append (State.handled_traceWellFormed i wf) _).trans (State.responseEvents_wellFormed i s)

/-- Settles O43: only a handler transmits, and around it a step adds the two indicator events. That the ids are distinct
is not needed: whichever instruction a shared id names, its flag is the frame's. -/
theorem stepKeepsTraceWellFormed : Obligations.StepKeepsTraceWellFormed := by
  intro s t _ wf h
  rw [parametersNeverChange s t h]
  have withIndicator {es : List Event} (hes : traceWellFormed s.params.cmdId es = true) (on : Bool) :
      traceWellFormed s.params.cmdId (es ++ [.setIndicator on]) = true := traceWellFormed_append hes _
  cases step_effect h with
  | write w rest input eq => rw [eq]; exact wf
  | quiet quiet => rw [quiet.trace]; exact wf
  | unmapped rest fsm eq => rw [eq]; exact withIndicator (withIndicator wf true) false
  | runs i u rest cmd len payload fsm input body decoded ran eq =>
    rw [eq]
    exact withIndicator (exec_next_traceWellFormed (s := s.indicatorOn rest) ran (withIndicator wf true)) false

end Sys2Proof.Machine
end

section
/-! SUPPORT. Frames and instructions: the decoder and the encoder are inverse to each other, for every numbering of the
command ids that tells the commands apart (R48 to R52, R62, R66). -/

namespace Sys2Proof

open Sys2Proof.Machine

/-! ## The body of a frame -/

/-- R50: the flag and the id make up the command byte. -/
@[simp] theorem cmdByte_cmdIdOf_cmdFlagOf (cmd : Byte) : cmdByte (cmdIdOf cmd) (cmdFlagOf cmd) = cmd := by
  rw [cmdByte_eq_concat]
  ext k hk
  cases k with
  | zero => simp [cmdFlagOf]
  | succ k => simp [cmdIdOf, Nat.add_comm 1 k, BitVec.getLsbD_eq_getElem hk]

theorem cmdIdOf_cmd (ids : CmdIds) (i : Instr) : cmdIdOf (i.cmd ids) = i.cmdId ids := cmdIdOf_cmdByte _ _

theorem cmdFlagOf_cmd (ids : CmdIds) (i : Instr) : cmdFlagOf (i.cmd ids) = i.flag := cmdFlagOf_cmdByte _ _

/-- R51: with distinct ids, an instruction's command byte names it. -/
theorem decodeBody_cmd {ids : CmdIds} (distinct : ids.Distinct) (i : Instr) :
    decodeBody ids (i.cmd ids) i.payload = some i := by
  simp only [CmdIds.Distinct, List.nodup_cons, List.mem_cons, List.not_mem_nil, or_false, not_or] at distinct
  obtain ⟨⟨g1, g2, g3, g4⟩, ⟨p1, p2, p3⟩, ⟨c1, c2⟩, f1, -⟩ := distinct
  unfold decodeBody
  rw [cmdIdOf_cmd, cmdFlagOf_cmd]
  cases i with
  | getSettings flag payload => exact if_pos rfl
  | setPower flag payload => simp [Instr.cmdId, Ne.symm g1, Instr.flag, Instr.payload]
  | setChannel flag payload => simp [Instr.cmdId, Ne.symm g2, Ne.symm p1, Instr.flag, Instr.payload]
  | setFrequency flag payload =>
    simp [Instr.cmdId, Ne.symm g3, Ne.symm p2, Ne.symm c1, Instr.flag, Instr.payload]
  | setMode flag payload =>
    simp [Instr.cmdId, Ne.symm g4, Ne.symm p3, Ne.symm c2, Ne.symm f1, Instr.flag, Instr.payload]

/-- R51: what a body decodes to has the body's command byte and payload, whether or not the ids are distinct. -/
theorem cmd_and_payload_of_decodeBody {ids : CmdIds} {cmd : Byte} {payload : List Byte} {i : Instr}
    (h : decodeBody ids cmd payload = some i) : i.cmd ids = cmd ∧ i.payload = payload := by
  have named : i.cmdId ids = cmdIdOf cmd ∧ i.flag = cmdFlagOf cmd ∧ i.payload = payload := by
    unfold decodeBody at h
    split_ifs at h with getSettings setPower setChannel setFrequency setMode <;> cases h
    · exact ⟨getSettings.symm, rfl, rfl⟩
    · exact ⟨setPower.symm, rfl, rfl⟩
    · exact ⟨setChannel.symm, rfl, rfl⟩
    · exact ⟨setFrequency.symm, rfl, rfl⟩
    · exact ⟨setMode.symm, rfl, rfl⟩
  obtain ⟨cmdId, flag, payload⟩ := named
  exact ⟨by rw [Instr.cmd, cmdId, flag, cmdByte_cmdIdOf_cmdFlagOf], payload⟩

/-- R52, R89: a command byte names no instruction exactly when its id is none of the five. -/
theorem decodeBody_eq_none_iff {ids : CmdIds} {cmd : Byte} {payload : List Byte} :
    decodeBody ids cmd payload = none ↔
      cmdIdOf cmd ∉ [ids.getSettings, ids.setPower, ids.setChannel, ids.setFrequency, ids.setMode] := by
  unfold decodeBody
  split_ifs with getSettings setPower setChannel setFrequency setMode <;> simp [*]

/-! ## Whole frames -/

/-- Settles O5: the checksum is the frame's own, so decoding comes down to the command byte. -/
theorem decodeOfEncode : Obligations.DecodeOfEncode :=
  fun _ i rest distinct wf => decode_frameBytes_append wf (decodeBody_cmd distinct i) rest

/-- R48, R49, R66: from CMD on, what decodes to an instruction is a command byte, a length, that many payload bytes and
their checksum. -/
theorem eq_of_decodeFromCmd {ids : CmdIds} {bytes rest : List Byte} {i : Instr}
    (h : decodeFromCmd ids bytes = .instr i rest) :
    ∃ cmd payload, payload.length ≤ 255 ∧ decodeBody ids cmd payload = some i ∧
      bytes = cmd :: lenByte payload :: (payload ++ frameCrc cmd (lenByte payload) payload :: rest) := by
  unfold decodeFromCmd at h
  split at h
  · next cmd len tail =>
    split at h
    · next crc after hdrop =>
      split_ifs at h with signed
      split at h
      · next j body =>
        cases h
        have whole : len.toNat < tail.length := by
          have := congrArg List.length hdrop
          simp only [List.length_drop, List.length_cons] at this
          omega
        have length : (tail.take len.toNat).length = len.toNat := List.length_take_of_le whole.le
        have announced : lenByte (tail.take len.toNat) = len := by
          rw [lenByte, length, BitVec.ofNat_toNat, BitVec.setWidth_eq]
        refine ⟨cmd, tail.take len.toNat, by have := len.isLt; omega, body, ?_⟩
        rw [announced, ← signed, ← hdrop, List.take_append_drop]
      · cases h
    · cases h
  · cases h

/-- R48, R62: what decodes to an instruction begins with a frame, whose body names it. -/
theorem eq_frameBytes_append_of_decode {ids : CmdIds} {bytes rest : List Byte} {i : Instr}
    (h : decode ids bytes = .instr i rest) :
    ∃ cmd payload, payload.length ≤ 255 ∧ decodeBody ids cmd payload = some i ∧
      bytes = frameBytes cmd payload ++ rest := by
  unfold decode at h
  split at h
  · split_ifs at h with sync
    split at h
    · split_ifs at h with marker
      obtain ⟨cmd, payload, length, body, rfl⟩ := eq_of_decodeFromCmd h
      exact ⟨cmd, payload, length, body, by simp [sync, marker, frameBytes, frameWithCrc]⟩
    · cases h
  · cases h

/-- Settles O6: the input is a frame, and the instruction's own frame has the same command byte and payload. -/
theorem encodeOfDecode : Obligations.EncodeOfDecode := by
  intro ids bytes i rest h
  obtain ⟨cmd, payload, length, body, rfl⟩ := eq_frameBytes_append_of_decode h
  obtain ⟨rfl, rfl⟩ := cmd_and_payload_of_decodeBody body
  exact ⟨length, rfl⟩

/-! ## The default ids -/

/-- Settles O7: each of the six frames is the encoding of the instruction it stands for. -/
theorem writtenOutFramesDecode : Obligations.WrittenOutFramesDecode := by
  have decodes (i : Instr) {frame : List Byte} (wf : i.WellFormed) (frame_eq : frame = encode CmdIds.default i) :
      decode CmdIds.default frame = .instr i [] := by
    rw [frame_eq, ← List.append_nil (encode _ _)]
    exact decodeOfEncode _ i [] (by decide) wf
  exact ⟨decodes _ (by decide) (by decide), decodes _ (by decide) (by decide), decodes _ (by decide) (by decide),
    decodes _ (by decide) (by decide), decodes _ (by decide) (by decide), decodes _ (by decide) (by decide)⟩

/-- R50: the id of a command byte as a number. -/
theorem toNat_cmdIdOf (cmd : Byte) : (cmdIdOf cmd).toNat = cmd.toNat / 2 := by
  have := cmd.isLt
  simp only [cmdIdOf, BitVec.toNat_setWidth, BitVec.toNat_ushiftRight, Nat.shiftRight_eq_div_pow]
  omega

/-- Settles O8: the ids are 1 to 5, and the id of a command byte is its half. -/
theorem unmappedCommandBytes : Obligations.UnmappedCommandBytes := by
  intro cmd payload
  rw [decodeBody_eq_none_iff]
  simp only [CmdIds.default, List.mem_cons, List.not_mem_nil, or_false, BitVec.toNat_eq, toNat_cmdIdOf,
    BitVec.reduceToNat]
  omega

end Sys2Proof
end

section
/-! SUPPORT. The responses of the block: the signed frame Respond sends (R61, R70, R71), the legacy path of
SET_FREQUENCY (R64, R97), and what a response decodes to (R74, R125). -/

namespace Sys2Proof.Machine

/-- R48: a frame with its true checksum, written out. -/
theorem frameBytes_eq_wireFrame (cmd : Byte) (payload : List Byte) : frameBytes cmd payload = wireFrame cmd payload :=
  rfl

/-- R61: a response's framing flag is 0, so its command byte is the shifted id (D3). -/
theorem responseCmd_eq_shiftLeft (id : CmdId) : responseCmd id = id.setWidth 8 <<< 1 := by
  simp [responseCmd, cmdByte]

/-- Settles O12: Respond hands its signed buffer to the transport, and that buffer is the frame. -/
theorem respondSendsOneSignedFrame : Obligations.RespondSendsOneSignedFrame := by
  intro p id payload s length fits
  rw [respond, respondIf_of_fits fits, if_pos rfl, State.finalizeAndSend_responseTx s id payload length,
    frameBytes_eq_wireFrame, responseCmd_eq_shiftLeft]

/-! ## The legacy path of SET_FREQUENCY -/

/-- R97 (D17): on the legacy path SET_FREQUENCY only answers the current frequency. -/
theorem exec_setFrequency_of_legacy (flag : Bool) {payload : List Byte} {s : State} (txCap : 16 ≤ s.params.txCap)
    (legacy : isLegacyFrequency (s.operandWord payload) = true) :
    exec (.setFrequency flag payload) s =
      .next { s with
        draws := s.draws + (2 - payload.length)
        trace := s.trace ++ [.txBytes (wireFrame (s.params.cmdId.setFrequency.setWidth 8 <<< 1)
          [hiByte s.settings.frequencyMhz, loByte s.settings.frequencyMhz, Config.reservedByte]), .flush] } := by
  have handled := State.handled_setFrequency_of_legacy flag legacy
  have answer : s.answer (.setFrequency flag payload) =
      [hiByte s.settings.frequencyMhz, loByte s.settings.frequencyMhz, Config.reservedByte] := by
    rw [State.answer, handled]
  rw [exec_eq_respondIf, answer, handled]
  exact respondSendsOneSignedFrame _ _ _ _ (by simp) (by simp only [List.length_cons, List.length_nil]; omega)

/-- R63: `REQ SET_FREQUENCY f` carries f verbatim. -/
theorem State.operandWord_reqSetFrequency (f : Word) (s : State) : s.operandWord (reqSetFrequency f).payload = f :=
  be16_hiByte_loByte f

/-- R64: `0x8000 | f[13:0]` is a legacy sub-command, whatever f is. -/
theorem isLegacyFrequency_or_8000 (f : Word) : isLegacyFrequency (0x8000 ||| f) = true := by
  simp [isLegacyFrequency]

/-- R64, R97: a frequency request with a legacy bit set only answers, and draws nothing. -/
theorem exec_reqSetFrequency_of_legacy {f : Word} {s : State} (txCap : 16 ≤ s.params.txCap)
    (legacy : isLegacyFrequency f = true) :
    exec (reqSetFrequency f) s =
      .next { s with trace := s.trace ++ [.txBytes (wireFrame (s.params.cmdId.setFrequency.setWidth 8 <<< 1)
        [hiByte s.settings.frequencyMhz, loByte s.settings.frequencyMhz, Config.reservedByte]), .flush] } :=
  exec_setFrequency_of_legacy false txCap ((s.operandWord_reqSetFrequency f).symm ▸ legacy)

/-- Settles O21: both pseudo-instructions are frequency requests with a legacy bit set. -/
theorem legacyPseudoInstructionsOnlyAnswer : Obligations.LegacyPseudoInstructionsOnlyAnswer := by
  rintro f i s txCap (rfl | rfl)
  · exact exec_reqSetFrequency_of_legacy txCap (isLegacyFrequency_or_8000 _)
  · exact exec_reqSetFrequency_of_legacy txCap (by decide)

/-! ## A response is a request of its command -/

/-- R96 (D9): a rejected channel emits nothing. -/
theorem State.handled_trace_of_rejected {i : Instr} {s : State} (rejected : rejectedChannel i s = true) :
    (s.handled i).trace = s.trace := by
  cases i with
  | setChannel flag payload => rw [State.handled_setChannel_of_le flag (of_decide_eq_true rejected)]
  | _ => cases rejected

/-- R91, R70: a frame that ends what a handler adds to the trace is the handler's signed response. -/
theorem exec_next_frame {i : Instr} {s t : State} {acts : List Event} {frame : List Byte} (h : exec i s = .next t)
    (trace : t.trace = s.trace ++ acts ++ [.txBytes frame, .flush]) :
    frame = signTx (responseTx (i.cmdId s.params.cmdId) (s.answer i)) := by
  rw [exec_next_eq h] at trace
  cases rejected : rejectedChannel i s with
  | true =>
    have lengths := congrArg List.length trace
    simp [State.responseEvents, rejected, State.handled_trace_of_rejected rejected] at lengths
  | false =>
    obtain ⟨-, events⟩ := List.append_inj' trace (by simp [State.responseEvents, rejected])
    rw [State.responseEvents, rejected, if_neg Bool.false_ne_true] at events
    exact (Event.txBytes.inj (List.cons.inj events).1).symm

/-- Settles O59: the transmitted frame is the signed response, which decodes whole. -/
theorem responseDecodesAsItsCommand : Obligations.ResponseDecodesAsItsCommand := by
  intro i s t acts frame _ h trace
  rw [exec_next_frame h trace]
  exact decode_signTx_responseTx _ i ((s.length_answer_le i).trans (by decide))

end Sys2Proof.Machine
end

section
/-! SUPPORT. Whole frames at the framing state machine: the header's four bytes, the payload, and the checksum byte of a
frame received whole (R77 to R82, R87, R89). -/

namespace Sys2Proof.Machine

/-! ## The checksum byte -/

/-- R73: a stored body of which every byte is known. -/
theorem State.rxBody_eq {s : State} {cmd len : Byte} {payload : List Byte} (idx : s.idx.toNat = 4 + payload.length)
    (hcmd : s.rxbuf.read 2 = cmd) (hlen : s.rxbuf.read 3 = len)
    (hpayload : ∀ k < payload.length, payload[k]? = some (s.rxbuf.read (4 + k))) :
    s.rxBody = cmd :: len :: payload := by
  rw [State.rxBody, idx, show 4 + payload.length - 2 = payload.length + 2 by omega]
  refine Memory.readRange_eq.2 ⟨by simp, fun k hk => ?_⟩
  match k with
  | 0 => simp [hcmd]
  | 1 => simp [hlen]
  | k + 2 => simpa [Nat.add_comm, Nat.add_left_comm] using hpayload k (by omega)

/-- R82: the checksum of the stored body dispatches the frame and resets the parser. -/
theorem step_of_checksum {s : State} {cmd len : Byte} {payload : List Byte} {rest : List EnvEvent}
    (fsm : s.fsm = .awaitChecksum) (inRx : s.idx.toNat ≤ s.params.rxCap) (body : s.rxBody = cmd :: len :: payload)
    (input : s.input = .byte (crc8 (cmd :: len :: payload)) :: rest) :
    step s = onNext State.parserReset (dispatch cmd payload { s with input := rest }) := by
  have check : onChecksum (crc8 (cmd :: len :: payload)) { s with input := rest } = checkBody _ s.rxBody _ :=
    if_neg (Nat.not_lt.2 inRx)
  rw [step_of_byte input]
  refine Eq.trans (stepByte_awaitChecksum fsm) (check.trans ?_)
  rw [body]
  exact if_pos rfl

/-- R87: a mapped id runs its handler between the indicator events (D15). -/
theorem dispatch_of_some {cmd : Byte} {payload : List Byte} {s : State} {i : Instr}
    (h : decodeBody s.params.cmdId cmd payload = some i) :
    dispatch cmd payload s = onNext (State.emit (.setIndicator false)) (exec i (s.emit (.setIndicator true))) := by
  rw [dispatch, h]

/-- R89: an unmapped id runs no handler. -/
theorem dispatch_of_none {cmd : Byte} {payload : List Byte} {s : State}
    (h : decodeBody s.params.cmdId cmd payload = none) :
    dispatch cmd payload s =
      .next (((s.emit (.setIndicator true)).noteDrop .unknownCommand).emit (.setIndicator false)) := by
  rw [dispatch, h]

/-- Settles O34: the checksum matches, so the frame reaches the router, which finds no handler. -/
theorem unmappedCommandIsNoOp : Obligations.UnmappedCommandIsNoOp := by
  intro s b cmd len payload rest inv fsm input idx hcmd hlen hpayload signed unmapped
  rw [step_of_checksum fsm inv.idxInRx (State.rxBody_eq idx hcmd hlen hpayload) (signed ▸ input),
    dispatch_of_none (s := { s with input := rest }) unmapped]
  simp [State.parserReset, State.emit, State.noteDrop]

/-! ## Storing consecutive bytes -/

/-- Below the first address written, a memory is as before. -/
theorem Memory.read_writeAll_of_lt {m : Memory} {a b : Nat} (vs : List Byte) (h : b < a) :
    (m.writeAll a vs).read b = m.read b := by
  induction vs generalizing m a with
  | nil => rfl
  | cons v vs ih => rw [Memory.writeAll, ih (by omega), Memory.read_write_other _ _ (by omega)]

/-- From the first address written on, a memory holds the written bytes, and then what it held. -/
theorem Memory.read_writeAll_add (m : Memory) (a k : Nat) (vs : List Byte) :
    (m.writeAll a vs).read (a + k) = vs[k]?.getD (m.read (a + k)) := by
  induction vs generalizing m a k with
  | nil => rfl
  | cons v vs ih =>
    cases k with
    | zero => exact (Memory.read_writeAll_of_lt vs (Nat.lt_add_one a)).trans (Memory.read_write_same m a v)
    | succ k =>
      rw [Memory.writeAll, show a + (k + 1) = a + 1 + k by omega, ih, Memory.read_write_other _ _ (by omega)]
      simp

/-- What a memory reads as after a list is written from address 0 on. -/
theorem Memory.read_writeAll_zero (m : Memory) (k : Nat) (vs : List Byte) :
    (m.writeAll 0 vs).read k = vs[k]?.getD (m.read k) := by
  simpa using m.read_writeAll_add 0 k vs

/-! ## One stored byte -/

section
variable {s : State} {rest : List EnvEvent}

/-- R77. -/
theorem step_awaitSync_of_sync (fsm : s.fsm = .awaitSync) (idx : s.idx = 0) (room : 0 < s.params.rxCap)
    (input : s.input = .byte Config.sync :: rest) :
    step s = .next { s with
      input := rest, rxbuf := s.rxbuf.write 0 Config.sync, idx := 1, fsm := .awaitMarker } := by
  rw [step_of_byte input]
  simp [stepByte_awaitSync, fsm, onSync, State.storeThen_of_lt, idx, room]

/-- R78. -/
theorem step_awaitMarker_of_marker (fsm : s.fsm = .awaitMarker) (idx : s.idx = 1) (room : 1 < s.params.rxCap)
    (input : s.input = .byte Config.marker :: rest) :
    step s = .next { s with
      input := rest, rxbuf := s.rxbuf.write 1 Config.marker, idx := 2, fsm := .awaitCommand } := by
  rw [step_of_byte input]
  simp [stepByte_awaitMarker, fsm, onMarker, State.storeThen_of_lt, idx, room]

/-- R79. -/
theorem step_awaitCommand {cmd : Byte} (fsm : s.fsm = .awaitCommand) (idx : s.idx = 2) (room : 2 < s.params.rxCap)
    (input : s.input = .byte cmd :: rest) :
    step s = .next { s with input := rest, rxbuf := s.rxbuf.write 2 cmd, idx := 3, fsm := .awaitLength } := by
  rw [step_of_byte input]
  simp [stepByte_awaitCommand, fsm, onCommand, State.storeThen_of_lt, idx, room]

/-- R80. -/
theorem step_awaitLength {len : Byte} (fsm : s.fsm = .awaitLength) (idx : s.idx = 3) (room : 3 < s.params.rxCap)
    (input : s.input = .byte len :: rest) :
    step s = .next { s with
      input := rest, rxbuf := s.rxbuf.write 3 len, idx := 4
      fsm := if len = 0 then .awaitChecksum else .awaitPayload
      expected := if len = 0 then s.expected else BitVec.ofNat 16 (4 + len.toNat) } := by
  rw [step_of_byte input]
  by_cases empty : len = 0#8 <;>
    simp [stepByte_awaitLength, fsm, onLength, State.storeThen_of_lt, idx, room, empty, BitVec.ofNat_add,
      ← BitVec.ofNat_toNat]

/-- R81. -/
theorem step_awaitPayload {b : Byte} (fsm : s.fsm = .awaitPayload) (room : s.idx.toNat < s.params.rxCap)
    (input : s.input = .byte b :: rest) :
    step s = .next { s with
      input := rest, rxbuf := s.rxbuf.write s.idx.toNat b, idx := s.idx + 1
      fsm := if s.idx + 1 = s.expected then .awaitChecksum else .awaitPayload } := by
  rw [step_of_byte input]
  by_cases whole : s.idx + 1#16 = s.expected <;>
    simp [stepByte_awaitPayload, fsm, onPayload, State.storeThen_of_lt, room, whole]

/-! ## A frame up to its checksum byte -/

/-- R77 to R80: with room for it, a header is taken in four steps. -/
theorem runSteps_header {cmd len : Byte} (fsm : s.fsm = .awaitSync) (idx : s.idx = 0) (room : 4 ≤ s.params.rxCap)
    (input : s.input = [Config.sync, Config.marker, cmd, len].map EnvEvent.byte ++ rest) :
    runSteps 4 s = .next { s with
      input := rest, rxbuf := s.rxbuf.writeAll 0 [Config.sync, Config.marker, cmd, len], idx := 4
      fsm := if len = 0 then .awaitChecksum else .awaitPayload
      expected := if len = 0 then s.expected else BitVec.ofNat 16 (4 + len.toNat) } := by
  refine Eq.trans (runSteps_succ (step_awaitSync_of_sync fsm idx (by omega) input)) ?_
  refine Eq.trans (runSteps_succ (step_awaitMarker_of_marker rfl rfl (Nat.lt_of_lt_of_le (by decide) room) rfl)) ?_
  refine Eq.trans (runSteps_succ (step_awaitCommand rfl rfl (Nat.lt_of_lt_of_le (by decide) room) rfl)) ?_
  exact runSteps_succ (step_awaitLength rfl rfl room rfl)

/-- R81, R84: payload bytes are stored one by one, until `idx` is `expected`. -/
theorem runSteps_payload {bytes : List Byte}
    (fsm : s.fsm = if s.idx = s.expected then .awaitChecksum else .awaitPayload)
    (room : s.expected.toNat ≤ s.params.rxCap) (fits : s.idx.toNat + bytes.length ≤ s.expected.toNat)
    (input : s.input = bytes.map EnvEvent.byte ++ rest) :
    runSteps bytes.length s = .next { s with
      input := rest, rxbuf := s.rxbuf.writeAll s.idx.toNat bytes, idx := s.idx + BitVec.ofNat 16 bytes.length
      fsm := if s.idx + BitVec.ofNat 16 bytes.length = s.expected then .awaitChecksum else .awaitPayload } := by
  induction bytes generalizing s with
  | nil =>
    have input : s.input = rest := input
    simp [runSteps, Memory.writeAll, ← fsm, ← input]
  | cons b bytes ih =>
    rw [List.length_cons] at fits
    have bound := s.expected.isLt
    have waiting : s.fsm = .awaitPayload := by
      rw [fsm, if_neg]
      intro whole
      rw [whole] at fits
      omega
    have idx : (s.idx + 1).toNat = s.idx.toNat + 1 := by
      rw [BitVec.toNat_add_of_lt]
      · rfl
      · simp; omega
    have length : s.idx + 1 + BitVec.ofNat 16 bytes.length = s.idx + BitVec.ofNat 16 (bytes.length + 1) := by
      rw [BitVec.ofNat_add, BitVec.add_assoc, BitVec.add_comm (BitVec.ofNat 16 _)]
      rfl
    refine Eq.trans (runSteps_succ (step_awaitPayload waiting (by omega) input)) ?_
    refine Eq.trans (ih rfl room (by show (s.idx + 1).toNat + _ ≤ s.expected.toNat; omega) rfl) ?_
    simp only [idx, length, Memory.writeAll, List.length_cons]

end

/-- The bytes of a frame up to its checksum byte (R48): what the receive buffer holds of it (R73, D13). -/
def frameHead (cmd : Byte) (payload : List Byte) : List Byte :=
  Config.sync :: Config.marker :: cmd :: lenByte payload :: payload

theorem length_frameHead (cmd : Byte) (payload : List Byte) : (frameHead cmd payload).length = 4 + payload.length := by
  simp only [frameHead, List.length_cons]
  omega

/-- R48, R66: a frame is its head and the checksum of what follows the marker. -/
theorem encode_eq_append (ids : CmdIds) (i : Instr) :
    encode ids i = frameHead (i.cmd ids) i.payload ++ [crc8 (i.cmd ids :: lenByte i.payload :: i.payload)] := rfl

/-- The state that has received all of a frame but its checksum byte (R85, row AwaitChecksum). -/
def State.bodyReceived (cmd : Byte) (payload : List Byte) (rest : List EnvEvent) (s : State) : State :=
  { s with
    fsm := .awaitChecksum
    idx := BitVec.ofNat 16 (4 + payload.length)
    expected := if payload = [] then s.expected else BitVec.ofNat 16 (4 + payload.length)
    rxbuf := s.rxbuf.writeAll 0 (frameHead cmd payload)
    input := rest }

section
variable {s : State} {cmd : Byte} {payload : List Byte} {rest : List EnvEvent} (length : payload.length ≤ 255)
include length

theorem State.bodyReceived_toNat_idx : (s.bodyReceived cmd payload rest).idx.toNat = 4 + payload.length :=
  Nat.mod_eq_of_lt (by omega)

/-- R77 to R81: with room for it, a frame is received up to its checksum byte. -/
theorem runSteps_bodyReceived (fsm : s.fsm = .awaitSync) (idx : s.idx = 0)
    (room : 4 + payload.length ≤ s.params.rxCap)
    (input : s.input = (frameHead cmd payload).map EnvEvent.byte ++ rest) :
    runSteps (4 + payload.length) s = .next (s.bodyReceived cmd payload rest) := by
  rw [runSteps_add (runSteps_header fsm idx (by omega) input)]
  cases payload with
  | nil => rfl
  | cons b bytes =>
    have announced := toNat_lenByte length
    have nonempty : lenByte (b :: bytes) ≠ 0 := fun empty => by simp [empty] at announced
    have expected : (BitVec.ofNat 16 (4 + (b :: bytes).length)).toNat = 4 + (b :: bytes).length :=
      State.bodyReceived_toNat_idx (s := s) (cmd := cmd) (rest := rest) length
    have waiting : (4 : Word) ≠ BitVec.ofNat 16 (4 + (b :: bytes).length) := by
      intro whole
      rw [← whole] at expected
      simp at expected
    have idx : (4 : Word) + BitVec.ofNat 16 (b :: bytes).length = BitVec.ofNat 16 (4 + (b :: bytes).length) := by
      rw [BitVec.ofNat_add]; rfl
    simp only [if_neg nonempty, announced]
    refine Eq.trans (runSteps_payload (if_neg waiting).symm (expected.trans_le room) expected.ge rfl) ?_
    simp only [idx]
    rfl

/-- R73: the checksum of a received frame covers CMD, LEN and the payload. -/
theorem State.rxBody_bodyReceived : (s.bodyReceived cmd payload rest).rxBody = cmd :: lenByte payload :: payload := by
  refine State.rxBody_eq (State.bodyReceived_toNat_idx length) ?_ ?_ fun k hk => ?_ <;>
    simp only [State.bodyReceived, Memory.read_writeAll_zero]
  · rfl
  · rfl
  · rw [Nat.add_comm]
    simp [frameHead, hk]

end

/-- R85: in AwaitSync nothing of a frame is stored. -/
theorem State.Inv.idx_of_awaitSync {s : State} (inv : s.Inv) (fsm : s.fsm = .awaitSync) : s.idx = 0 := by
  have index := inv.index
  rw [State.IndexFits, fsm] at index
  exact BitVec.eq_of_toNat_eq index

/-- R13: with the transmit bound the spec requires, every handler ends in a next state. -/
theorem exists_exec_next (i : Instr) {s : State} (txCap : 16 ≤ s.params.txCap) : ∃ t, exec i s = .next t :=
  ⟨_, exec_next_iff.2 ⟨fun _ => (Nat.add_le_add_left (s.length_answer_le i) 5).trans txCap, rfl⟩⟩

/-- R74, R82, R87: the checksum byte of a received frame runs the frame's instruction between the indicator events
(D15), and resets the parser. -/
theorem step_bodyReceived {s t : State} {i : Instr} {rest : List EnvEvent} (distinct : s.params.cmdId.Distinct)
    (length : i.payload.length ≤ 255) (room : 4 + i.payload.length ≤ s.params.rxCap)
    (ran : exec i ((s.bodyReceived (i.cmd s.params.cmdId) i.payload rest).emit (.setIndicator true)) = .next t) :
    step (s.bodyReceived (i.cmd s.params.cmdId) i.payload
        (.byte (crc8 (i.cmd s.params.cmdId :: lenByte i.payload :: i.payload)) :: rest)) =
      .next (t.emit (.setIndicator false)).parserReset := by
  rw [step_of_checksum (rest := rest) rfl (by rwa [State.bodyReceived_toNat_idx length])
    (State.rxBody_bodyReceived length) rfl]
  refine Eq.trans (congrArg _ (dispatch_of_some (decodeBody_cmd distinct i))) ?_
  refine Eq.trans (congrArg (fun o => onNext State.parserReset (onNext _ o)) ran) ?_
  rfl

/-- Settles O55: four header steps and one per payload byte receive the body, and the checksum byte runs it. -/
theorem wholeFrameRunsItsInstruction : Obligations.WholeFrameRunsItsInstruction := by
  intro s i rest inv fsm cap wf input
  have length : i.payload.length ≤ 255 := wf
  have room : 4 + i.payload.length ≤ s.params.rxCap := by omega
  rw [encode_eq_append, List.map_append, List.append_assoc] at input
  obtain ⟨t, ran⟩ := exists_exec_next i
    (s := (s.bodyReceived (i.cmd s.params.cmdId) i.payload rest).emit (.setIndicator true)) inv.legal.txCap
  refine ⟨(s.bodyReceived (i.cmd s.params.cmdId) i.payload rest).rxbuf, t, fun a => ?_, ran, ?_⟩
  · rw [encode_eq_append, State.bodyReceived, Memory.read_writeAll_zero, ← length_frameHead (i.cmd s.params.cmdId)]
    split
    · next below => rw [List.getElem?_append_left below, List.getElem?_eq_getElem below, Option.getD_some]
    · next beyond => rw [List.getElem?_eq_none (Nat.not_lt.1 beyond), Option.getD_none]
  · rw [show 5 + i.payload.length = 4 + i.payload.length + 1 by omega,
      runSteps_add (runSteps_bodyReceived length fsm (inv.idx_of_awaitSync fsm) room input)]
    exact runSteps_succ (step_bodyReceived inv.legal.cmdId length room ran)

end Sys2Proof.Machine
end

section
/-! SUPPORT. The CRC-8 unit (40_crc8.md R65, R68): a round is linear and injective, and so is what the unit builds of it. -/

namespace Sys2Proof.Machine

/-! ## One round -/

/-- R65: a round with its test of bit 7 written around it. -/
theorem crcRound_eq_ite (acc : Byte) :
    crcRound acc = if acc.getLsbD 7 then (acc <<< 1) ^^^ 0xD5 else acc <<< 1 := by
  unfold crcRound
  split
  · rfl
  · exact BitVec.xor_zero

/-- A round maps XOR to XOR: shifting does, and POLY enters twice, and so cancels, if bit 7 is set in both. -/
theorem crcRound_xor (x y : Byte) : crcRound (x ^^^ y) = crcRound x ^^^ crcRound y := by
  have poly : (if (x ^^^ y).getLsbD 7 then Config.poly else 0) =
      (if x.getLsbD 7 then Config.poly else 0) ^^^ (if y.getLsbD 7 then Config.poly else 0) := by
    rw [BitVec.getLsbD_xor]
    cases x.getLsbD 7 <;> cases y.getLsbD 7 <;> decide
  unfold crcRound
  rw [poly, BitVec.shiftLeft_xor_distrib]
  ac_rfl

/-- POLY is odd, so bit 0 after a round tells bit 7 before it. -/
theorem getLsbD_zero_crcRound (acc : Byte) : (crcRound acc).getLsbD 0 = acc.getLsbD 7 := by
  rw [crcRound_eq_ite]
  cases acc.getLsbD 7 <;> simp

/-- No bit is lost in a round: the one shifted out decides whether POLY was added. -/
theorem crcRound_injective : Function.Injective crcRound := by
  intro x y same
  have top : x.getLsbD 7 = y.getLsbD 7 := by rw [← getLsbD_zero_crcRound, same, getLsbD_zero_crcRound]
  have shifted : x <<< 1 = y <<< 1 := by
    unfold crcRound at same
    rwa [top, BitVec.xor_left_inj] at same
  refine BitVec.eq_of_getLsbD_eq fun i hi => ?_
  rcases Nat.lt_succ_iff_lt_or_eq.1 hi with below | rfl
  · have bit := congrArg (BitVec.getLsbD · (i + 1)) shifted
    simpa [hi, show i + 1 < 8 by omega] using bit
  · exact top

/-! ## Rounds, bytes and messages -/

theorem crcRounds_eq_iterate (n : Nat) (acc : Byte) : crcRounds n acc = crcRound^[n] acc := by
  induction n generalizing acc with
  | zero => rfl
  | succ n ih => exact ih _

theorem crcRounds_xor (n : Nat) (x y : Byte) : crcRounds n (x ^^^ y) = crcRounds n x ^^^ crcRounds n y := by
  induction n generalizing x y with
  | zero => rfl
  | succ n ih => rw [crcRounds, crcRound_xor, ih]; rfl

theorem crcRounds_injective (n : Nat) : Function.Injective (crcRounds n) := by
  rw [funext (crcRounds_eq_iterate n)]
  exact crcRound_injective.iterate n

/-- The accumulator and the input byte play the same part. -/
theorem crcByte_xor (x y b c : Byte) : crcByte (x ^^^ y) (b ^^^ c) = crcByte x b ^^^ crcByte y c := by
  unfold crcByte
  rw [← crcRounds_xor]
  congr 1
  ac_rfl

/-- A byte that equals the accumulator clears it. -/
@[simp] theorem crcByte_self (acc : Byte) : crcByte acc acc = 0 := by
  rw [crcByte, BitVec.xor_self]
  decide

@[simp] theorem crcByte_left_inj {x y b : Byte} : crcByte x b = crcByte y b ↔ x = y :=
  (crcRounds_injective 8).eq_iff.trans (BitVec.xor_left_inj _)

@[simp] theorem crcByte_right_inj {acc b c : Byte} : crcByte acc b = crcByte acc c ↔ b = c :=
  (crcRounds_injective 8).eq_iff.trans (BitVec.xor_right_inj _)

theorem crcFrom_xor {a b : List Byte} (length : a.length = b.length) (x y : Byte) :
    crcFrom (x ^^^ y) (List.zipWith (· ^^^ ·) a b) = crcFrom x a ^^^ crcFrom y b := by
  induction a generalizing b x y with
  | nil => rw [List.eq_nil_of_length_eq_zero length.symm]; rfl
  | cons c a ih =>
    cases b with
    | nil => cases length
    | cons d b => simp only [List.zipWith_cons_cons, crcFrom_cons, crcByte_xor, ih (Nat.succ.inj length)]

/-- Whatever follows, the checksum still tells two accumulators apart. -/
@[simp] theorem crcFrom_left_inj {x y : Byte} (m : List Byte) : crcFrom x m = crcFrom y m ↔ x = y := by
  induction m generalizing x y with
  | nil => rfl
  | cons b m ih => rw [crcFrom_cons, crcFrom_cons, ih, crcByte_left_inj]

/-- R68 (c), as an equivalence: messages that agree but for one byte have equal checksums only if that byte agrees too. -/
theorem crc8_append_cons_inj {before after : List Byte} {b c : Byte} :
    crc8 (before ++ b :: after) = crc8 (before ++ c :: after) ↔ b = c := by
  simp only [crc8, crcFrom_append, crcFrom_cons, crcFrom_left_inj, crcByte_right_inj]

/-! ## The statements -/

/-- Settles O1: one more byte is a `crcByte`, and its eight rounds are an iterate of the round. -/
theorem crc8IsBitwiseConstruction : Obligations.Crc8IsBitwiseConstruction := by
  refine ⟨rfl, fun m b => ?_, fun m rest => ?_⟩
  · rw [crc8_concat, crcByte, crcRounds_eq_iterate, ← funext crcRound_eq_ite]
  · rw [crc8N, List.take_left]

/-- Settles O2: the appended byte equals the accumulator. -/
theorem crc8ResidueIsZero : Obligations.Crc8ResidueIsZero := by
  intro m
  rw [crc8_concat, crcByte_self]

/-- Settles O3: linearity from the accumulators 0 and 0, whose XOR is 0. -/
theorem crc8IsLinear : Obligations.Crc8IsLinear :=
  fun _ _ length => crcFrom_xor length Config.crcInit Config.crcInit

/-- Settles O4: the accumulators after the changed byte differ, and stay different. -/
theorem crc8DetectsOneChangedByte : Obligations.Crc8DetectsOneChangedByte :=
  fun _ _ _ _ => mt crc8_append_cons_inj.1

/-! ## A corrupted frame -/

/-- R66: the checksum of a frame tells two payload bytes in the same place apart. -/
theorem frameCrc_append_cons_inj {cmd len b c : Byte} {before after : List Byte} :
    frameCrc cmd len (before ++ b :: after) = frameCrc cmd len (before ++ c :: after) ↔ b = c :=
  crc8_append_cons_inj (before := cmd :: len :: before)

/-- R48: a frame with a given checksum byte is a frame's head and that byte. -/
theorem frameWithCrc_eq_append (cmd : Byte) (payload : List Byte) (crc : Byte) :
    frameWithCrc cmd payload crc = frameHead cmd payload ++ [crc] := rfl

/-- R82, R102: a byte that is not the checksum of the stored body drops the frame. -/
theorem step_of_crcMismatch {s : State} {b cmd len : Byte} {payload : List Byte} {rest : List EnvEvent}
    (fsm : s.fsm = .awaitChecksum) (inRx : s.idx.toNat ≤ s.params.rxCap) (body : s.rxBody = cmd :: len :: payload)
    (input : s.input = .byte b :: rest) (differs : b ≠ crc8 (cmd :: len :: payload)) :
    step s = .next ({ s with input := rest }.noteDrop .crcMismatch).parserReset := by
  have check : onChecksum b { s with input := rest } = checkBody b s.rxBody { s with input := rest } :=
    if_neg (Nat.not_lt.2 inRx)
  rw [step_of_byte input]
  refine Eq.trans (stepByte_awaitChecksum fsm) (check.trans ?_)
  rw [body]
  exact if_neg differs

/-- R77 to R82: from AwaitSync, a frame that is whole but for a wrong checksum byte is received and dropped. -/
theorem runSteps_frameWithCrc_of_ne {s : State} {cmd crc : Byte} {payload : List Byte} {rest : List EnvEvent}
    (length : payload.length ≤ 255) (fsm : s.fsm = .awaitSync) (idx : s.idx = 0)
    (room : 4 + payload.length ≤ s.params.rxCap)
    (input : s.input = (frameWithCrc cmd payload crc).map EnvEvent.byte ++ rest)
    (differs : crc ≠ frameCrc cmd (lenByte payload) payload) :
    runSteps (4 + payload.length + 1) s =
      .next ((s.bodyReceived cmd payload rest).noteDrop .crcMismatch).parserReset := by
  rw [frameWithCrc_eq_append, List.map_append, List.append_assoc] at input
  rw [runSteps_add (runSteps_bodyReceived length fsm idx room input)]
  exact runSteps_succ (step_of_crcMismatch rfl (by rwa [State.bodyReceived_toNat_idx length])
    (State.rxBody_bodyReceived length) rfl differs)

/-- Settles O58: the changed payload has the length the frame announces and another checksum than the one it carries. -/
theorem corruptedPayloadIsSuppressed : Obligations.CorruptedPayloadIsSuppressed := by
  intro s cmd b c before after rest inv fsm cap length changed input
  have count (x : Byte) : (before ++ x :: after).length = before.length + 1 + after.length := by simp; omega
  have announced : lenByte (before ++ b :: after) = lenByte (before ++ c :: after) := by
    rw [lenByte, lenByte, count, count]
  rw [announced] at input
  have run := runSteps_frameWithCrc_of_ne (by rwa [count]) fsm (inv.idx_of_awaitSync fsm) (by rw [count]; omega) input
    (mt frameCrc_append_cons_inj.1 changed)
  rw [count, show 4 + (before.length + 1 + after.length) + 1 = 5 + (before.length + 1 + after.length) by omega] at run
  exact ⟨_, run, rfl, rfl, rfl, rfl, rfl, rfl, rfl, rfl⟩

end Sys2Proof.Machine
end

section
/-! SUPPORT. Where a response begins and where it is refused: the buffer BuildHeader makes (R69), and Respond over the
transmit bound (R72). -/

namespace Sys2Proof.Machine

/-- R69: the whole buffer of BuildHeader, its four header bytes before what the payload and the checksum will overwrite. -/
theorem buildHeader_eq (cmd len : Byte) :
    buildHeader cmd len =
      ([Config.sync, Config.marker, cmd, len] ++ List.replicate (len.toNat + 1) 0, 4) := by
  have fresh : freshTx len.toNat = List.replicate 4 0 ++ List.replicate (len.toNat + 1) 0 := by
    rw [freshTx, List.replicate_append_replicate]
    congr 1
    omega
  rw [buildHeader, fresh]
  rfl

/-- Settles O11: the header is the first part of the buffer, and the rest are LEN payload bytes and the checksum's. -/
theorem buildHeaderWritesHeader : Obligations.BuildHeaderWritesHeader := by
  intro cmd len
  rw [buildHeader_eq]
  refine ⟨rfl, ?_, rfl⟩
  simp
  omega

/-- A response over the transmit bound that is to be sent is refused (R72). -/
theorem respondIf_true_of_lt {p : Params} {id : CmdId} {payload : List Byte} {s : State}
    (overlong : p.txCap < 5 + payload.length) : respondIf true p id payload s = .refused .responseTooLong := by
  have unfit : fitsTx p payload = false := decide_eq_false (Nat.not_le.2 overlong)
  simp [respondIf, unfit]

/-- Settles O13: Respond is the response that is always to be sent. -/
theorem respondRefusesOverlongFrame : Obligations.RespondRefusesOverlongFrame :=
  fun _ _ _ _ => respondIf_true_of_lt

end Sys2Proof.Machine
end

section
/-! SUPPORT. The framing state machine, rule by rule: Store (R76), the discarded and stored bytes of R77 to R81, the two
outcomes of the checksum check (R82), and the parser reset (R83). -/

namespace Sys2Proof.Machine

/-! ## Store and the parser reset -/

/-- Settles O25: the two cases of Store, and the buffer it leaves is the old one with one byte written. -/
theorem storeWritesOrOverflows : Obligations.StoreWritesOrOverflows := by
  intro b s
  refine ⟨fun room => ⟨_, State.store_of_lt b room, fun a => Memory.read_write _ _ a b⟩, fun full => ?_⟩
  rw [State.store_of_le b full]
  rfl

/-- R76: in every storing state the rule is a Store and what follows it. -/
theorem stepByte_of_storing {s : State} {b : Byte} (storing : s.fsm ≠ .awaitChecksum)
    (sync : s.fsm = .awaitSync → b = Config.sync) (marker : s.fsm = .awaitMarker → b = Config.marker) :
    ∃ f, stepByte b s = .next (s.storeThen b f) := by
  cases fsm : s.fsm with
  | awaitSync => exact ⟨_, by rw [stepByte_awaitSync fsm, onSync, if_pos (sync fsm)]⟩
  | awaitMarker => exact ⟨_, by rw [stepByte_awaitMarker fsm, onMarker, if_pos (marker fsm)]⟩
  | awaitCommand => exact ⟨_, stepByte_awaitCommand fsm⟩
  | awaitLength => exact ⟨_, stepByte_awaitLength fsm⟩
  | awaitPayload => exact ⟨_, stepByte_awaitPayload fsm⟩
  | awaitChecksum => exact absurd fsm storing

/-- Settles O31: the rule of each storing state is a Store, and a full buffer makes the reset its last word. -/
theorem fullBufferResetsParser : Obligations.FullBufferResetsParser := by
  intro s b rest input full storing sync marker
  obtain ⟨f, stores⟩ := stepByte_of_storing (s := { s with input := rest }) storing sync marker
  rw [step_of_byte input, stores, State.storeThen_of_le (s := { s with input := rest }) b f full]
  rfl

/-- A Store whose rule goes on to another state than AwaitSync ends in AwaitSync only by the reset of a full buffer. -/
theorem State.storeThen_idx_of_awaitSync {s : State} {b : Byte} {f : State → State}
    (goesOn : ∀ u, u.fsm = s.fsm → (f u).fsm ≠ .awaitSync) (sync : (s.storeThen b f).fsm = .awaitSync) :
    (s.storeThen b f).idx = 0 := by
  rcases Nat.lt_or_ge s.idx.toNat s.params.rxCap with room | full
  · rw [State.storeThen_of_lt b f room] at sync
    exact absurd sync (goesOn _ rfl)
  · rw [State.storeThen_of_le b f full]
    rfl

/-- R83: a byte's step that ends in AwaitSync ends with idx 0. -/
theorem stepByte_idx_of_awaitSync {s t : State} {b : Byte} (h : stepByte b s = .next t) (sync : t.fsm = .awaitSync) :
    t.idx = 0 := by
  obtain ⟨-, rfl⟩ | ⟨-, rfl⟩ | ⟨-, rfl⟩ | ⟨-, rfl⟩ | ⟨fsm, rfl⟩ | ⟨-, check⟩ := stepByte_next_cases h
  · by_cases stored : b = Config.sync
    · rw [onSync, if_pos stored] at sync ⊢
      exact State.storeThen_idx_of_awaitSync (fun _ _ => by simp) sync
    · rw [onSync, if_neg stored]
      rfl
  · by_cases stored : b = Config.marker
    · rw [onMarker, if_pos stored] at sync ⊢
      exact State.storeThen_idx_of_awaitSync (fun _ _ => by simp) sync
    · rw [onMarker, if_neg stored]
      rfl
  · exact State.storeThen_idx_of_awaitSync (fun _ _ => by simp) sync
  · exact State.storeThen_idx_of_awaitSync (fun _ _ => by split <;> simp) sync
  · exact State.storeThen_idx_of_awaitSync (fun _ kept => by split <;> simp [kept, fsm]) sync
  · obtain ⟨-, cmd, len, payload, -, ⟨-, u, -, rfl⟩ | ⟨-, rfl⟩⟩ := onChecksum_next_cases check <;> rfl

/-- Settles O42: the reset by its definition, and the return to AwaitSync rule by rule. -/
theorem returnToSyncResetsIndex : Obligations.ReturnToSyncResetsIndex := by
  refine ⟨fun _ => rfl, fun s t b rest input h sync => ?_⟩
  rw [step_of_byte input] at h
  exact stepByte_idx_of_awaitSync h sync

/-! ## The rows of R85 -/

/-- R85: before the payload, `idx` is the state's number. -/
theorem State.Inv.idx_of_header {s : State} {x : Fsm} (inv : s.Inv) (fsm : s.fsm = x) (header : x.code ≤ 3) :
    s.idx = BitVec.ofNat 16 x.code := by
  have index := inv.index
  rw [State.IndexFits, fsm] at index
  cases x with
  | awaitSync => exact BitVec.eq_of_toNat_eq index
  | awaitMarker => exact BitVec.eq_of_toNat_eq index
  | awaitCommand => exact BitVec.eq_of_toNat_eq index
  | awaitLength => exact BitVec.eq_of_toNat_eq index
  | awaitPayload => exact absurd header (by decide)
  | awaitChecksum => exact absurd header (by decide)

/-- R85, the row AwaitPayload. -/
theorem State.Inv.index_of_awaitPayload {s : State} (inv : s.Inv) (fsm : s.fsm = .awaitPayload) :
    4 ≤ s.idx.toNat ∧ s.idx.toNat < s.expected.toNat ∧ s.expected.toNat = 4 + (s.rxbuf.read 3).toNat ∧
      1 ≤ (s.rxbuf.read 3).toNat := by
  have index := inv.index
  rwa [State.IndexFits, fsm] at index

/-- R85, the row AwaitChecksum. -/
theorem State.Inv.index_of_awaitChecksum {s : State} (inv : s.Inv) (fsm : s.fsm = .awaitChecksum) :
    s.idx.toNat = 4 + (s.rxbuf.read 3).toNat := by
  have index := inv.index
  rwa [State.IndexFits, fsm] at index

/-! ## One byte in each state -/

/-- R77, R100: a byte that is not SYNC is discarded. -/
theorem step_awaitSync_of_ne {s : State} {b : Byte} {rest : List EnvEvent} (fsm : s.fsm = .awaitSync)
    (input : s.input = .byte b :: rest) (other : b ≠ Config.sync) :
    step s = .next { s with input := rest, idx := 0, drops := s.drops ++ [.desyncSync] } := by
  rw [step_of_byte input, stepByte_awaitSync (s := { s with input := rest }) fsm, onSync, if_neg other]
  rfl

/-- R78, R101: a byte that is not MARKER is discarded and resets the parser. -/
theorem step_awaitMarker_of_ne {s : State} {b : Byte} {rest : List EnvEvent} (fsm : s.fsm = .awaitMarker)
    (input : s.input = .byte b :: rest) (other : b ≠ Config.marker) :
    step s = .next ({ s with input := rest }.noteDrop .desyncMarker).parserReset := by
  rw [step_of_byte input, stepByte_awaitMarker (s := { s with input := rest }) fsm, onMarker, if_neg other]

/-- Settles O26: the stored SYNC and the discarded byte. -/
theorem awaitSyncStep : Obligations.AwaitSyncStep := by
  intro s b rest inv fsm input
  refine ⟨fun sync room => ?_, fun other => ?_⟩
  · subst sync
    exact ⟨_, step_awaitSync_of_sync fsm (inv.idx_of_awaitSync fsm) room input,
      fun a => Memory.read_write _ _ a _⟩
  · rw [step_awaitSync_of_ne fsm input other, ← fsm]

/-- Settles O27: the stored MARKER and the discarded byte. -/
theorem awaitMarkerStep : Obligations.AwaitMarkerStep := by
  intro s b rest inv fsm input
  refine ⟨fun marker room => ?_, fun other => ?_⟩
  · subst marker
    exact ⟨_, step_awaitMarker_of_marker fsm (inv.idx_of_header fsm (by decide)) room input,
      fun a => Memory.read_write _ _ a _⟩
  · rw [step_awaitMarker_of_ne fsm input other]
    rfl

/-- Settles O28: the invariants put `idx` at 2, where the byte is stored. -/
theorem awaitCommandStep : Obligations.AwaitCommandStep := by
  intro s b rest inv fsm input room
  exact ⟨_, step_awaitCommand fsm (inv.idx_of_header fsm (by decide)) room input, fun a => Memory.read_write _ _ a b⟩

/-- Settles O29: the two branches on the length, over one written buffer. -/
theorem awaitLengthStep : Obligations.AwaitLengthStep := by
  intro s b rest inv fsm input room
  have stored := step_awaitLength fsm (inv.idx_of_header fsm (by decide)) room input
  refine ⟨s.rxbuf.write 3 b, fun a => Memory.read_write _ _ a b, fun empty => ?_, fun nonempty => ?_⟩
  · rw [stored, if_pos empty, if_pos empty]
  · rw [stored, if_neg nonempty, if_neg nonempty]

/-- `idx` counts up by one while it is below `expected`. -/
theorem toNat_succ_of_lt {idx bound : Word} (below : idx.toNat < bound.toNat) : (idx + 1).toNat = idx.toNat + 1 := by
  have small := bound.isLt
  rw [BitVec.toNat_add_of_lt]
  · rfl
  · simp; omega

/-- Settles O30: with room the byte is stored, `idx` being below `expected`; a full buffer resets the parser. -/
theorem awaitPayloadStep : Obligations.AwaitPayloadStep := by
  intro s b rest inv fsm input
  refine ⟨fun room => ⟨s.rxbuf.write s.idx.toNat b, ?_, fun a => Memory.read_write _ _ a b⟩, fun full => ?_⟩
  · obtain ⟨-, below, -, -⟩ := inv.index_of_awaitPayload fsm
    simp only [step_awaitPayload fsm room input, ← BitVec.toNat_inj, toNat_succ_of_lt below]
  · exact fullBufferResetsParser s b rest input full (by simp [fsm]) (by simp [fsm]) (by simp [fsm])

/-! ## The checksum byte -/

/-- R73, R85: when the checksum is awaited, the stored body holds CMD and LEN. -/
theorem State.Inv.exists_rxBody {s : State} (inv : s.Inv) (fsm : s.fsm = .awaitChecksum) :
    ∃ cmd len payload, s.rxBody = cmd :: len :: payload := by
  have index := inv.index_of_awaitChecksum fsm
  refine ⟨s.rxbuf.read 2, s.rxbuf.read 3, s.rxbuf.readRange 4 (s.rxbuf.read 3).toNat, ?_⟩
  rw [State.rxBody, index, show 4 + (s.rxbuf.read 3).toNat - 2 = (s.rxbuf.read 3).toNat + 2 by omega]
  rfl

/-- Settles O32: the body of the statement is the stored one, and another byte than its checksum drops the frame. -/
theorem checksumMismatchDropsFrame : Obligations.ChecksumMismatchDropsFrame := by
  intro s b rest body inv fsm input length bytes differs
  have stored : s.rxBody = body := Memory.readRange_eq.2 ⟨by omega, fun k hk => bytes k (by omega)⟩
  obtain ⟨cmd, len, payload, parts⟩ := inv.exists_rxBody fsm
  rw [← stored, parts] at differs
  exact step_of_crcMismatch fsm inv.idxInRx parts input differs

/-- Settles O33: the checksum matches, so the frame reaches the router, which finds the handler of `i`. -/
theorem stepRunsDecodedInstruction : Obligations.StepRunsDecodedInstruction := by
  intro s b cmd len payload rest i inv fsm input idx hcmd hlen hpayload signed decoded
  rw [step_of_checksum fsm inv.idxInRx (State.rxBody_eq idx hcmd hlen hpayload) (signed ▸ input),
    dispatch_of_some (s := { s with input := rest }) decoded, State.emit]
  cases exec i { s with input := rest, trace := s.trace ++ [.setIndicator true] } <;> rfl

end Sys2Proof.Machine
end

section
/-! SUPPORT. The invariants of R85: they hold at power-on, every step keeps them, and no state that meets them is
stuck. -/

namespace Sys2Proof.Machine

/-- R85, R121: at power-on nothing of a frame is stored, and the boot contents of the buffer are canonical. -/
theorem State.powerOn_inv {p : Params} {boot : BootValues} (legal : p.Legal) (contents : boot.Legal p) :
    (State.powerOn p boot).Inv where
  legal := legal
  canon := contents.canon
  inRx := contents.inRx
  idxInRx := Nat.zero_le _
  stored := ⟨by simp [State.powerOn], by simp [State.powerOn]⟩
  index := rfl

/-- Settles O37: State.reset is the power-on state of the default parameters with an empty buffer. -/
theorem powerOnMeetsInvariants : Obligations.PowerOnMeetsInvariants := by
  obtain ⟨-, -, -, -, legal⟩ := pinnedTableEntries
  have contents : BootValues.zero.Legal Params.default := ⟨State.reset_rxbuf_wf, fun c listed => nomatch listed⟩
  exact ⟨fun p boot => State.powerOn_inv, State.powerOn_inv legal contents⟩

namespace State.Inv

variable {s t : State}

/-- The invariants speak of the parameters, the parser and the receive buffer only. -/
theorem of_same_parser (inv : s.Inv) (params : t.params = s.params) (fsm : t.fsm = s.fsm) (idx : t.idx = s.idx)
    (expected : t.expected = s.expected) (rxbuf : t.rxbuf = s.rxbuf) : t.Inv where
  legal := params ▸ inv.legal
  canon := rxbuf ▸ inv.canon
  inRx := by rw [rxbuf, params]; exact inv.inRx
  idxInRx := by rw [idx, params]; exact inv.idxInRx
  stored := ⟨by rw [idx, rxbuf]; exact inv.stored.sync, by rw [idx, rxbuf]; exact inv.stored.marker⟩
  index := by
    have index := inv.index
    unfold State.IndexFits at index ⊢
    rwa [fsm, idx, expected, rxbuf]

/-- R83: with the buffer as it was, AwaitSync and idx 0 meet the invariants. -/
theorem of_awaitSync (inv : s.Inv) (params : t.params = s.params) (rxbuf : t.rxbuf = s.rxbuf)
    (fsm : t.fsm = .awaitSync) (idx : t.idx = 0) : t.Inv where
  legal := params ▸ inv.legal
  canon := rxbuf ▸ inv.canon
  inRx := by rw [rxbuf, params]; exact inv.inRx
  idxInRx := by rw [idx]; exact Nat.zero_le _
  stored := ⟨by simp [idx], by simp [idx]⟩
  index := by rw [State.IndexFits, fsm, idx]; rfl

/-- R76: one more byte stored at `idx` keeps the invariants, if it is SYNC at offset 0 and MARKER at offset 1 and the
state after it agrees with R85's row. -/
theorem of_stored {b : Byte} (inv : s.Inv) (room : s.idx.toNat < s.params.rxCap) (params : t.params = s.params)
    (rxbuf : t.rxbuf = s.rxbuf.write s.idx.toNat b) (idx : t.idx.toNat = s.idx.toNat + 1)
    (sync : s.idx.toNat = 0 → b = Config.sync) (marker : s.idx.toNat = 1 → b = Config.marker)
    (index : t.IndexFits) : t.Inv where
  legal := params ▸ inv.legal
  canon := rxbuf ▸ Memory.write_wf _ _ inv.canon
  inRx := by
    intro c listed
    rw [rxbuf] at listed
    rw [params]
    obtain rfl | listed := Memory.mem_write listed
    · exact room
    · exact inv.inRx c listed
  idxInRx := by rw [idx, params]; exact room
  stored := by
    constructor <;> intro some <;> rw [rxbuf, Memory.read_write]
    · split
      · next here => exact sync here.symm
      · exact inv.stored.sync (by omega)
    · split
      · next here => exact marker here.symm
      · exact inv.stored.marker (by omega)
  index := index

end State.Inv

/-! ## Every step within the invariants -/

/-- The next step ends in a next state, and that state meets the invariants. -/
def State.StepsWithinInv (s : State) : Prop := ∃ t, step s = .next t ∧ t.Inv

/-- R87, R92: with the transmit bound the spec requires, the router ends in a next state, with the parameters and the
receive buffer as they were. -/
theorem exists_dispatch_next (cmd : Byte) (payload : List Byte) {s : State} (txCap : 16 ≤ s.params.txCap) :
    ∃ t, dispatch cmd payload s = .next t ∧ t.params = s.params ∧ t.rxbuf = s.rxbuf := by
  cases decoded : decodeBody s.params.cmdId cmd payload with
  | none => exact ⟨_, dispatch_of_none decoded, rfl, rfl⟩
  | some i =>
    obtain ⟨u, ran⟩ := exists_exec_next i (s := s.emit (.setIndicator true)) txCap
    obtain ⟨-, -, -, rxbuf, -⟩ := exec_next_parser ran
    refine ⟨u.emit (.setIndicator false), ?_, (exec_next_keeps ran).params, rxbuf⟩
    rw [dispatch_of_some decoded, ran]
    rfl

namespace State.Inv

section
variable {s : State} {b : Byte} {rest : List EnvEvent} (inv : s.Inv) (input : s.input = .byte b :: rest)
include inv input

/-- R105: an overflow leaves the parser reset. -/
theorem steps_of_full (full : s.params.rxCap ≤ s.idx.toNat) (storing : s.fsm ≠ .awaitChecksum)
    (sync : s.fsm = .awaitSync → b = Config.sync) (marker : s.fsm = .awaitMarker → b = Config.marker) :
    s.StepsWithinInv :=
  ⟨_, fullBufferResetsParser s b rest input full storing sync marker, inv.of_awaitSync rfl rfl rfl rfl⟩

theorem steps_of_awaitSync (fsm : s.fsm = .awaitSync) : s.StepsWithinInv := by
  have idx := inv.idx_of_awaitSync fsm
  by_cases sync : b = Config.sync
  · rcases Nat.lt_or_ge s.idx.toNat s.params.rxCap with room | full
    · subst sync
      exact ⟨_, step_awaitSync_of_sync fsm idx (by simpa [idx] using room) input,
        inv.of_stored room rfl (by rw [idx]; rfl) (by rw [idx]; rfl) (fun _ => rfl) (by simp [idx]) rfl⟩
    · exact inv.steps_of_full input full (by simp [fsm]) (fun _ => sync) (by simp [fsm])
  · exact ⟨_, step_awaitSync_of_ne fsm input sync, inv.of_awaitSync rfl rfl fsm rfl⟩

theorem steps_of_awaitMarker (fsm : s.fsm = .awaitMarker) : s.StepsWithinInv := by
  have idx : s.idx = 1 := inv.idx_of_header fsm (by decide)
  by_cases marker : b = Config.marker
  · rcases Nat.lt_or_ge s.idx.toNat s.params.rxCap with room | full
    · subst marker
      exact ⟨_, step_awaitMarker_of_marker fsm idx (by simpa [idx] using room) input,
        inv.of_stored room rfl (by rw [idx]; rfl) (by rw [idx]; rfl) (by simp [idx]) (fun _ => rfl) rfl⟩
    · exact inv.steps_of_full input full (by simp [fsm]) (by simp [fsm]) (fun _ => marker)
  · exact ⟨_, step_awaitMarker_of_ne fsm input marker, inv.of_awaitSync rfl rfl rfl rfl⟩

theorem steps_of_awaitCommand (fsm : s.fsm = .awaitCommand) : s.StepsWithinInv := by
  have idx : s.idx = 2 := inv.idx_of_header fsm (by decide)
  rcases Nat.lt_or_ge s.idx.toNat s.params.rxCap with room | full
  · exact ⟨_, step_awaitCommand fsm idx (by simpa [idx] using room) input,
      inv.of_stored room rfl (by rw [idx]; rfl) (by rw [idx]; rfl) (by simp [idx]) (by simp [idx]) rfl⟩
  · exact inv.steps_of_full input full (by simp [fsm]) (by simp [fsm]) (by simp [fsm])

/-- R80: the rows AwaitPayload and AwaitChecksum both speak of the length just stored. -/
theorem steps_of_awaitLength (fsm : s.fsm = .awaitLength) : s.StepsWithinInv := by
  have idx : s.idx = 3 := inv.idx_of_header fsm (by decide)
  rcases Nat.lt_or_ge s.idx.toNat s.params.rxCap with room | full
  · refine ⟨_, step_awaitLength fsm idx (by simpa [idx] using room) input,
      inv.of_stored room rfl (by rw [idx]; rfl) (by rw [idx]; rfl) (by simp [idx]) (by simp [idx]) ?_⟩
    have small := b.isLt
    by_cases empty : b = 0
    · simp [State.IndexFits, empty]
    · have expected : (BitVec.ofNat 16 (4 + b.toNat)).toNat = 4 + b.toNat := Nat.mod_eq_of_lt (by omega)
      have positive : 1 ≤ b.toNat := Nat.pos_of_ne_zero fun zero => empty (BitVec.eq_of_toNat_eq zero)
      simp only [State.IndexFits, if_neg empty, Memory.read_write_same, expected]
      exact ⟨Nat.le_refl 4, Nat.lt_add_of_pos_right positive, trivial, positive⟩
  · exact inv.steps_of_full input full (by simp [fsm]) (by simp [fsm]) (by simp [fsm])

/-- R81: a payload byte is stored beyond the length byte, and the checksum is next exactly when `idx` is `expected`. -/
theorem steps_of_awaitPayload (fsm : s.fsm = .awaitPayload) : s.StepsWithinInv := by
  obtain ⟨beyond, below, expected, nonempty⟩ := inv.index_of_awaitPayload fsm
  have idx := toNat_succ_of_lt below
  rcases Nat.lt_or_ge s.idx.toNat s.params.rxCap with room | full
  · refine ⟨_, step_awaitPayload fsm room input, inv.of_stored room rfl rfl idx (by omega) (by omega) ?_⟩
    have length : (s.rxbuf.write s.idx.toNat b).read 3 = s.rxbuf.read 3 := Memory.read_write_other _ _ (by omega)
    by_cases whole : s.idx + 1 = s.expected
    · simp only [State.IndexFits, if_pos whole, length]
      rw [whole, expected]
    · have more : (s.idx + 1).toNat ≠ s.expected.toNat := fun same => whole (BitVec.eq_of_toNat_eq same)
      simp only [State.IndexFits, if_neg whole, length]
      omega
  · exact inv.steps_of_full input full (by simp [fsm]) (by simp [fsm]) (by simp [fsm])

/-- R82: the check finds CMD and LEN stored, and resets the parser whether it dispatches the frame or drops it. -/
theorem steps_of_awaitChecksum (fsm : s.fsm = .awaitChecksum) : s.StepsWithinInv := by
  obtain ⟨cmd, len, payload, body⟩ := inv.exists_rxBody fsm
  by_cases signed : b = crc8 (cmd :: len :: payload)
  · obtain ⟨u, ran, params, rxbuf⟩ := exists_dispatch_next cmd payload (s := { s with input := rest }) inv.legal.txCap
    refine ⟨u.parserReset, ?_, inv.of_awaitSync params rxbuf rfl rfl⟩
    rw [step_of_checksum fsm inv.idxInRx body (signed ▸ input), ran]
    rfl
  · exact ⟨_, step_of_crcMismatch fsm inv.idxInRx body input signed, inv.of_awaitSync rfl rfl rfl rfl⟩

end

/-- R75, R85: from a state that meets the invariants every move ends in such a state. -/
theorem steps {s : State} (inv : s.Inv) : s.StepsWithinInv := by
  match input : s.input with
  | [] => exact ⟨s, step_of_nil input, inv⟩
  | .write w :: rest => exact ⟨_, step_of_write input, inv.of_same_parser rfl rfl rfl rfl rfl⟩
  | .byte b :: rest =>
    cases fsm : s.fsm with
    | awaitSync => exact inv.steps_of_awaitSync input fsm
    | awaitMarker => exact inv.steps_of_awaitMarker input fsm
    | awaitCommand => exact inv.steps_of_awaitCommand input fsm
    | awaitLength => exact inv.steps_of_awaitLength input fsm
    | awaitPayload => exact inv.steps_of_awaitPayload input fsm
    | awaitChecksum => exact inv.steps_of_awaitChecksum input fsm

end State.Inv

/-- Settles O39: the state a step ends in is the one that meets the invariants. -/
theorem stepKeepsInvariants : Obligations.StepKeepsInvariants := by
  intro s t inv h
  obtain ⟨u, next, kept⟩ := inv.steps
  exact Host.Outcome.next.inj (next.symm.trans h) ▸ kept

/-- Settles O40: the same fact without the invariants of the state stepped to. -/
theorem noStuckState : Obligations.NoStuckState :=
  fun _ inv => inv.steps.imp fun _ => And.left

end Sys2Proof.Machine
end

section
/-! SUPPORT. Runs of the framing state machine: a payload takes exactly its length (R84), and noise before a frame leaves
the frame's one response as it is (R86). -/

namespace Sys2Proof.Machine

/-- Settles O56: the payload run, whose state is AwaitPayload until `idx` is `expected`. -/
theorem payloadTakesExactlyItsLength : Obligations.PayloadTakesExactlyItsLength := by
  intro s bytes rest inv fsm cap fits input
  obtain ⟨-, below, expected, -⟩ := inv.index_of_awaitPayload fsm
  have small := (s.rxbuf.read 3).isLt
  have waiting : s.fsm = if s.idx = s.expected then .awaitChecksum else .awaitPayload := by
    rw [if_neg fun whole => Nat.ne_of_lt below (congrArg BitVec.toNat whole), fsm]
  have idx : (s.idx + BitVec.ofNat 16 bytes.length).toNat = s.idx.toNat + bytes.length := by
    rw [BitVec.toNat_add, BitVec.toNat_ofNat]
    omega
  refine ⟨_, runSteps_payload waiting (by omega) fits input, rfl, rfl, rfl, idx, ?_⟩
  simp only [← BitVec.toNat_inj, idx]

/-! ## Noise -/

/-- The state after noise in AwaitSync: only the input is consumed, and a drop code noted for each byte (R100). -/
def State.afterNoise (noise : List Byte) (rest : List EnvEvent) (s : State) : State :=
  { s with input := rest, drops := s.drops ++ List.replicate noise.length .desyncSync }

/-- R77, R86: in AwaitSync, bytes without SYNC are discarded one by one. -/
theorem runSteps_noise {s : State} {noise : List Byte} {rest : List EnvEvent} (fsm : s.fsm = .awaitSync)
    (idx : s.idx = 0) (quiet : ∀ b ∈ noise, b ≠ Config.sync) (input : s.input = noise.map EnvEvent.byte ++ rest) :
    runSteps noise.length s = .next (s.afterNoise noise rest) := by
  induction noise generalizing s with
  | nil =>
    have input : s.input = rest := input
    simp [runSteps, State.afterNoise, ← input]
  | cons b noise ih =>
    obtain ⟨other, quiet⟩ := List.forall_mem_cons.1 quiet
    refine Eq.trans (runSteps_succ (step_awaitSync_of_ne fsm input other)) ?_
    refine Eq.trans (ih fsm rfl quiet rfl) ?_
    simp [State.afterNoise, idx, List.replicate_succ]

/-! ## The responses in a trace -/

theorem responsesOf_append (es more : List Event) : responsesOf (es ++ more) = responsesOf es ++ responsesOf more := by
  induction es with
  | nil => rfl
  | cons e es ih => cases e <;> simp [responsesOf, ih]

/-- R94 to R98: before its response a handler transmits nothing. -/
theorem State.responsesOf_handled (i : Instr) (s : State) : responsesOf (s.handled i).trace = responsesOf s.trace := by
  cases i with
  | getSettings flag payload => rfl
  | setPower flag payload => simp [State.handled_setPower, responsesOf_append, responsesOf]
  | setChannel flag payload =>
    by_cases inTable : (s.operandByte payload).toNat < 48
    · simp [State.handled_setChannel_of_lt flag inTable, responsesOf_append, responsesOf]
    · rw [State.handled_setChannel_of_le flag (Nat.not_lt.1 inTable)]
  | setFrequency flag payload =>
    cases legacy : isLegacyFrequency (s.operandWord payload)
    · simp [State.handled_setFrequency_of_normal flag legacy, responsesOf_append, responsesOf]
    · rw [State.handled_setFrequency_of_legacy flag legacy]
  | setMode flag payload =>
    cases clears : modeClearPit (s.operandByte payload) <;>
      simp [State.handled_setMode, clears, responsesOf_append, responsesOf]

/-- R91: a handler that rejects no channel adds exactly one response. -/
theorem exec_next_responsesOf {i : Instr} {s t : State} (h : exec i s = .next t)
    (accepted : rejectedChannel i s = false) : ∃ frame, responsesOf t.trace = responsesOf s.trace ++ [frame] := by
  refine ⟨signTx (responseTx (i.cmdId s.params.cmdId) (s.answer i)), ?_⟩
  rw [exec_next_eq h, responsesOf_append, State.responsesOf_handled, State.responseEvents, accepted]
  rfl

/-- R96: a SET_CHANNEL whose payload begins with a channel of the table is not rejected. -/
theorem rejectedChannel_eq_false {i : Instr}
    (inTable : ∀ flag payload, i = .setChannel flag payload → ∃ ch more, payload = ch :: more ∧ ch.toNat < 48)
    (s : State) : rejectedChannel i s = false := by
  cases i with
  | setChannel flag payload =>
    obtain ⟨ch, more, rfl, below⟩ := inTable flag payload rfl
    exact decide_eq_false (Nat.not_le.2 below)
  | _ => rfl

/-- Settles O57: the noise leaves the state in which the whole frame runs its instruction, which answers once. -/
theorem noiseThenFrameAnswersOnce : Obligations.NoiseThenFrameAnswersOnce := by
  intro s noise i inv fsm cap wf quiet inTable input
  rw [List.map_append] at input
  have ranNoise := runSteps_noise fsm (inv.idx_of_awaitSync fsm) quiet input
  have invMid : (s.afterNoise noise ((encode s.params.cmdId i).map .byte)).Inv := inv.of_same_parser rfl rfl rfl rfl rfl
  obtain ⟨buf, t, -, ran, ranFrame⟩ := wholeFrameRunsItsInstruction _ i [] invMid fsm cap wf (List.append_nil _).symm
  obtain ⟨frame, answered⟩ := exec_next_responsesOf ran (rejectedChannel_eq_false inTable _)
  obtain ⟨length, -, -, -⟩ := Laws.FrameLength.of_payload i wf s.params.cmdId
  have count : s.input.length = noise.length + (5 + i.payload.length) := by
    rw [input, List.length_append, List.length_map, List.length_map, length]
  refine ⟨_, _, frame, ranNoise, rfl, rfl, (count ▸ runSteps_add ranNoise).trans ranFrame, ?_, rfl⟩
  simp [responsesOf_append, answered, responsesOf, State.afterNoise]

end Sys2Proof.Machine
end

section
/-! SUPPORT. The router and the handlers' events (43_dispatch.md): the framing flag selects nothing (R88), and a handler
answers once, at its end (R91). -/

namespace Sys2Proof

/-- The instruction with another framing flag (R50). -/
def Instr.withFlag (flag : Bool) : Instr → Instr
  | .getSettings _ payload => .getSettings flag payload
  | .setPower _ payload => .setPower flag payload
  | .setChannel _ payload => .setChannel flag payload
  | .setFrequency _ payload => .setFrequency flag payload
  | .setMode _ payload => .setMode flag payload

/-- R50, R51: bodies of one id name the same instruction but for the flag. -/
theorem decodeBody_of_cmdIdOf_eq {ids : CmdIds} {c d : Byte} (h : cmdIdOf c = cmdIdOf d) (payload : List Byte) :
    decodeBody ids d payload = (decodeBody ids c payload).map (Instr.withFlag (cmdFlagOf d)) := by
  unfold decodeBody
  rw [h]
  split_ifs <;> rfl

end Sys2Proof

namespace Sys2Proof.Machine

/-! ## The dispatch key -/

/-- R88: no handler reads the framing flag. -/
theorem exec_withFlag (flag : Bool) (i : Instr) (s : State) : exec (i.withFlag flag) s = exec i s := by
  cases i <;> rfl

/-- R88: the router looks at a command byte's id only. -/
theorem dispatch_eq_of_cmdIdOf_eq {c d : Byte} (h : cmdIdOf c = cmdIdOf d) (payload : List Byte) (s : State) :
    dispatch c payload s = dispatch d payload s := by
  have bodies := decodeBody_of_cmdIdOf_eq (ids := s.params.cmdId) h payload
  cases named : decodeBody s.params.cmdId c payload with
  | none => rw [dispatch_of_none named, dispatch_of_none (bodies.trans (by rw [named, Option.map_none]))]
  | some i =>
    rw [dispatch_of_some named, dispatch_of_some (bodies.trans (by rw [named, Option.map_some])), exec_withFlag]

/-- Settles O9: the id is the shifted command byte, and 2k and 2k+1 are the command bytes of id k with either flag. -/
theorem dispatchKeyedByShiftedCommand : Obligations.DispatchKeyedByShiftedCommand := by
  refine ⟨fun c d payload s key => dispatch_eq_of_cmdIdOf_eq (congrArg (BitVec.setWidth 7) key) payload s,
    fun k payload s => dispatch_eq_of_cmdIdOf_eq ?_ payload s⟩
  have even : k.setWidth 8 <<< 1 = cmdByte k false := (responseCmd_eq_shiftLeft k).symm
  have odd : k.setWidth 8 <<< 1 ||| 1 = cmdByte k true := rfl
  rw [odd, even, cmdIdOf_cmdByte, cmdIdOf_cmdByte]

/-! ## The events of a handler -/

/-- The events a handler may emit before its response (R94 to R98). -/
def Event.IsAction (e : Event) : Prop := e = .markDirty ∨ (∃ f, e = .tune f) ∨ (∃ p, e = .setPowerDbm p)

theorem Event.isAction_markDirty : Event.markDirty.IsAction := .inl rfl

theorem Event.isAction_tune (f : Word) : (Event.tune f).IsAction := .inr (.inl ⟨f, rfl⟩)

theorem Event.isAction_setPowerDbm (p : Byte) : (Event.setPowerDbm p).IsAction := .inr (.inr ⟨p, rfl⟩)

/-- R94 to R98: up to its response, a handler only adds actions to the trace. -/
theorem State.handled_trace_actions (i : Instr) (s : State) :
    ∃ acts : List Event, (s.handled i).trace = s.trace ++ acts ∧ ∀ e ∈ acts, e.IsAction := by
  have quiet : ∃ acts : List Event, s.trace = s.trace ++ acts ∧ ∀ e ∈ acts, e.IsAction := ⟨[], by simp⟩
  cases i with
  | getSettings flag payload => exact quiet
  | setPower flag payload =>
    rw [State.handled_setPower]
    exact ⟨_, rfl, by simp [Event.isAction_setPowerDbm, Event.isAction_markDirty]⟩
  | setChannel flag payload =>
    by_cases inTable : (s.operandByte payload).toNat < 48
    · rw [State.handled_setChannel_of_lt flag inTable]
      exact ⟨_, rfl, by simp [Event.isAction_tune, Event.isAction_markDirty]⟩
    · rw [State.handled_setChannel_of_le flag (Nat.not_lt.1 inTable)]
      exact quiet
  | setFrequency flag payload =>
    cases legacy : isLegacyFrequency (s.operandWord payload)
    · rw [State.handled_setFrequency_of_normal flag legacy]
      exact ⟨_, rfl, by simp [Event.isAction_tune, Event.isAction_markDirty]⟩
    · rw [State.handled_setFrequency_of_legacy flag legacy]
      exact quiet
  | setMode flag payload =>
    rw [State.handled_setMode, List.append_assoc]
    refine ⟨_, rfl, ?_⟩
    cases modeClearPit (s.operandByte payload) <;> simp [Event.isAction_setPowerDbm, Event.isAction_markDirty]

/-- Settles O23: a handler is its actions and then its response, and a rejected channel has neither. -/
theorem handlersAnswerExactlyOnce : Obligations.HandlersAnswerExactlyOnce := by
  intro i s t h
  cases rejected : rejectedChannel i s with
  | true =>
    refine ⟨?_, by rw [exec_next_faults h, if_pos rejected]; rfl⟩
    rw [exec_next_eq h, State.handled_trace_of_rejected rejected, State.responseEvents, if_pos rejected, List.append_nil]
  | false =>
    obtain ⟨acts, trace, actions⟩ := s.handled_trace_actions i
    refine ⟨acts, signTx (responseTx (i.cmdId s.params.cmdId) (s.answer i)), ?_, actions⟩
    rw [exec_next_eq h, trace, State.responseEvents, rejected]
    rfl

end Sys2Proof.Machine
end

section
/-! SUPPORT. The commands of 44_commands.md as whole-state equations (R94 to R98): the layout of the two mode bytes, where
the legacy frequencies lie, a handler that answers and one that does not, and the statements. -/

namespace Sys2Proof.Machine

/-! ## The mode bytes and the legacy frequencies -/

/-- R59 (D5): the five flags, each at its own bit. -/
theorem toNat_settingsModeByte (pitMode : Bool) (x : Settings) :
    (settingsModeByte pitMode x).toNat =
      x.freqIndep.toNat + 2 * pitMode.toNat + 4 * x.pitInRange.toNat + 8 * x.pitOutRange.toNat + 16 * x.unlocked.toNat := by
  have layout : ∀ b0 b1 b2 b3 b4 : Bool,
      (flagBit b0 0 ||| flagBit b1 1 ||| flagBit b2 2 ||| flagBit b3 3 ||| flagBit b4 4).toNat =
        b0.toNat + 2 * b1.toNat + 4 * b2.toNat + 8 * b3.toNat + 16 * b4.toNat := by decide
  exact layout ..

/-- R58: the four flags, each at its own bit. -/
theorem toNat_modeResponseByte (pitMode : Bool) (x : Settings) :
    (modeResponseByte pitMode x).toNat =
      x.pitInRange.toNat + 2 * x.pitOutRange.toNat + 4 * pitMode.toNat + 8 * x.unlocked.toNat := by
  have layout : ∀ b0 b1 b2 b3 : Bool, (flagBit b0 0 ||| flagBit b1 1 ||| flagBit b2 2 ||| flagBit b3 3).toNat =
      b0.toNat + 2 * b1.toNat + 4 * b2.toNat + 8 * b3.toNat := by decide
  exact layout ..

/-- R56: the legacy sub-commands are the frequencies of 0x4000 or more. -/
theorem isLegacyFrequency_iff {f : Word} : isLegacyFrequency f = true ↔ 0x4000 ≤ f.toNat := by
  refine ⟨fun legacy => ?_, fun large => ?_⟩
  · rcases (Bool.or_eq_true _ _).mp legacy with bit14 | bit15
    · exact Nat.ge_two_pow_of_testBit bit14
    · exact (by decide : 0x4000 ≤ 2 ^ 15).trans (Nat.ge_two_pow_of_testBit bit15)
  · by_contra normal
    exact absurd (toNat_lt_of_not_legacy (Bool.eq_false_of_not_eq_true normal)) (Nat.not_lt.2 large)

/-! ## The two ends of a handler -/

/-- R13, R71 (D3): with the transmit bound the spec requires, a handler that does not reject its channel ends with its
writes and one signed frame. -/
theorem exec_of_accepted {i : Instr} {s : State} (txCap : 16 ≤ s.params.txCap) (accepted : rejectedChannel i s = false) :
    exec i s =
      .next { s.handled i with trace := (s.handled i).trace ++
        [.txBytes (wireFrame ((i.cmdId s.params.cmdId).setWidth 8 <<< 1) (s.answer i)), .flush] } := by
  have length := s.length_answer_le i
  rw [exec_eq_respondIf, accepted]
  exact respondSendsOneSignedFrame _ _ _ _ (by omega) (by omega)

/-- R91 (C7): a handler that rejects its channel ends with its writes alone, whatever the transmit bound. -/
theorem exec_of_rejected {i : Instr} {s : State} (rejected : rejectedChannel i s = true) :
    exec i s = .next (s.handled i) :=
  exec_next_iff.2 ⟨fun accepted => by simp [rejected] at accepted, by simp [State.responseEvents, rejected]⟩

/-! ## The statements -/

/-- Settles O14: GET_SETTINGS writes nothing before it answers its report. -/
theorem getSettingsAnswers : Obligations.GetSettingsAnswers := fun _ _ s txCap =>
  ⟨settingsModeByte s.pitMode s.settings, toNat_settingsModeByte _ _, exec_of_accepted txCap rfl⟩

/-- Settles O15: the writes of SET_POWER and its echo. -/
theorem setPowerAppliesAndEchoes : Obligations.SetPowerAppliesAndEchoes := by
  rintro flag payload s P txCap rfl
  rw [exec_of_accepted txCap rfl, State.handled_setPower, State.answer, State.reqByte_zero, List.append_assoc]
  rfl

/-- Settles O16: the writes of SET_CHANNEL for a channel of the table, and its echo. -/
theorem setChannelStoresAndTunes : Obligations.SetChannelStoresAndTunes := by
  rintro flag payload s ch inTable txCap rfl
  have accepted : rejectedChannel (.setChannel flag payload) s = false := decide_eq_false (Nat.not_le.2 inTable)
  rw [exec_of_accepted txCap accepted, State.handled_setChannel_of_lt flag inTable, State.answer, State.reqByte_zero,
    List.append_assoc]
  rfl

/-- Settles O17: a rejected channel ends with the recorded fault and its drop code. -/
theorem setChannelRejectsOutOfRange : Obligations.SetChannelRejectsOutOfRange := by
  rintro flag payload s ch outside rfl
  have rejected : rejectedChannel (.setChannel flag payload) s = true := decide_eq_true outside
  rw [exec_of_rejected rejected, State.handled_setChannel_of_le flag outside]
  rfl

/-- Settles O18: below 0x4000 the frequency is no legacy sub-command, and the answer is its two halves. -/
theorem setFrequencyStoresVerbatim : Obligations.SetFrequencyStoresVerbatim := by
  rintro flag payload s hi lo txCap hi_eq lo_eq small
  have word : s.operandWord payload = be16 hi lo := by rw [hi_eq, lo_eq]; rfl
  have normal : isLegacyFrequency (s.operandWord payload) = false := by
    rw [word, ← Bool.not_eq_true, isLegacyFrequency_iff, toNat_be16]
    exact Nat.not_le.2 small
  have handled := State.handled_setFrequency_of_normal flag normal
  have answer : s.answer (.setFrequency flag payload) = [hi, lo, Config.reservedByte] := by
    rw [State.answer, handled, word, hiByte_be16, loByte_be16]
  rw [exec_of_accepted txCap rfl, answer, handled, word, be16_eq_append, List.append_assoc]
  rfl

/-- Settles O19: from 0x4000 on the frequency is a legacy sub-command. -/
theorem setFrequencyLegacyChangesNothing : Obligations.SetFrequencyLegacyChangesNothing := by
  rintro flag payload s hi lo txCap rfl rfl large
  exact exec_setFrequency_of_legacy flag txCap (isLegacyFrequency_iff.2 (large.trans_eq (toNat_be16 _ _).symm))

/-- Settles O20: the mode byte of the answer is the one of the state after the writes. -/
theorem setModeStoresAndReports : Obligations.SetModeStoresAndReports := by
  rintro flag payload s M txCap rfl
  refine ⟨modeResponseByte (s.handled (.setMode flag payload)).pitMode (s.handled (.setMode flag payload)).settings,
    ?_, ?_⟩
  · rw [toNat_modeResponseByte, State.handled_setMode]
    rfl
  · rw [exec_of_accepted txCap rfl, State.answer, State.handled_setMode, List.append_assoc _ [Event.markDirty]]
    rfl

end Sys2Proof.Machine
end

section
/-! SUPPORT. The drop codes of 60_exceptions.md (R99 to R107): which of them a handler, a framing rule and a byte's step can
note, and the two statements that follow. -/

namespace Sys2Proof.Machine

/-- The drop codes the framing state machine notes by itself (R100 to R102, R105). -/
def framingDrops : List DropCode := [.desyncSync, .desyncMarker, .crcMismatch, .rxOverflow]

/-- The drop codes of the checks on a command, which come after the checksum (R103, R104, R107). -/
def commandDrops : List DropCode := [.unknownCommand, .invalidChannel]

/-- From `s` to `t` at most one drop code is noted, and it is one of `codes`. -/
def DropsAtMostOneOf (codes : List DropCode) (s t : State) : Prop :=
  t.drops = s.drops ∨ ∃ d ∈ codes, t.drops = s.drops ++ [d]

/-- A code outside `codes` is not what was added. -/
theorem DropsAtMostOneOf.ne_append {codes : List DropCode} {s t : State} {d : DropCode}
    (h : DropsAtMostOneOf codes s t) (other : d ∉ codes) : t.drops ≠ s.drops ++ [d] := by
  intro added
  obtain same | ⟨e, mem, noted⟩ := h
  · simp [same] at added
  · have eq : e = d := by simpa [noted] using added
    exact other (eq ▸ mem)

/-! ## The handlers and the router -/

/-- R96 (D9): what a handler writes before it answers notes a drop code only for a rejected channel. -/
theorem State.handled_drops (i : Instr) (s : State) :
    (s.handled i).drops = if rejectedChannel i s then s.drops ++ [.invalidChannel] else s.drops := by
  cases i with
  | getSettings flag payload => rfl
  | setPower flag payload => rw [State.handled_setPower]; rfl
  | setChannel flag payload =>
    by_cases h : (s.operandByte payload).toNat < 48
    · have accepted : rejectedChannel (.setChannel flag payload) s = false := decide_eq_false (Nat.not_le.2 h)
      rw [State.handled_setChannel_of_lt flag h, accepted]; rfl
    · have rejected : rejectedChannel (.setChannel flag payload) s = true := decide_eq_true (Nat.not_lt.1 h)
      rw [State.handled_setChannel_of_le flag (Nat.not_lt.1 h), rejected]; rfl
  | setFrequency flag payload =>
    cases h : isLegacyFrequency (s.operandWord payload)
    · rw [State.handled_setFrequency_of_normal flag h]; rfl
    · rw [State.handled_setFrequency_of_legacy flag h]; rfl
  | setMode flag payload => rw [State.handled_setMode]; rfl

/-- R104: the one drop code a handler notes is InvalidChannel, and only for a rejected SET_CHANNEL. -/
theorem exec_next_drops {i : Instr} {s t : State} (h : exec i s = .next t) :
    t.drops = if rejectedChannel i s then s.drops ++ [.invalidChannel] else s.drops := by
  rw [exec_next_eq h]
  exact State.handled_drops i s

/-- R103, R104: an unmapped id runs no handler, so the router's code and the handler's exclude each other. -/
theorem dispatch_next_drops {cmd : Byte} {payload : List Byte} {s t : State} (h : dispatch cmd payload s = .next t) :
    DropsAtMostOneOf commandDrops s t := by
  obtain ⟨i, u, -, hexec, rfl⟩ | ⟨-, rfl⟩ := dispatch_next_cases h
  · have drops := exec_next_drops hexec
    split at drops
    · exact .inr ⟨.invalidChannel, by decide, drops⟩
    · exact .inl drops
  · exact .inr ⟨.unknownCommand, by decide, rfl⟩

/-! ## The framing rules -/

/-- R105: Store notes RxOverflow when the buffer is full, and then nothing follows it. -/
theorem State.storeThen_drops (s : State) (b : Byte) {f : State → State} (hf : ∀ u, (f u).drops = u.drops) :
    DropsAtMostOneOf framingDrops s (s.storeThen b f) := by
  rcases Nat.lt_or_ge s.idx.toNat s.params.rxCap with room | full
  · rw [State.storeThen_of_lt b f room]
    exact .inl (hf _)
  · rw [State.storeThen_of_le b f full]
    exact .inr ⟨.rxOverflow, by decide, rfl⟩

theorem onSync_drops (b : Byte) (s : State) : DropsAtMostOneOf framingDrops s (onSync b s) := by
  unfold onSync
  split
  · exact State.storeThen_drops s b fun _ => rfl
  · exact .inr ⟨.desyncSync, by decide, rfl⟩

theorem onMarker_drops (b : Byte) (s : State) : DropsAtMostOneOf framingDrops s (onMarker b s) := by
  unfold onMarker
  split
  · exact State.storeThen_drops s b fun _ => rfl
  · exact .inr ⟨.desyncMarker, by decide, rfl⟩

theorem onCommand_drops (b : Byte) (s : State) : DropsAtMostOneOf framingDrops s (onCommand b s) :=
  State.storeThen_drops s b fun _ => rfl

theorem onLength_drops (b : Byte) (s : State) : DropsAtMostOneOf framingDrops s (onLength b s) :=
  State.storeThen_drops s b fun _ => by split <;> rfl

theorem onPayload_drops (b : Byte) (s : State) : DropsAtMostOneOf framingDrops s (onPayload b s) :=
  State.storeThen_drops s b fun _ => by split <;> rfl

/-- R107: the checksum check notes CrcMismatch and runs no command check, or the command checks run on a matching byte. -/
theorem onChecksum_next_drops {b : Byte} {s t : State} (h : onChecksum b s = .next t) :
    DropsAtMostOneOf framingDrops s t ∨ b = crc8 s.rxBody ∧ DropsAtMostOneOf commandDrops s t := by
  obtain ⟨-, cmd, len, payload, body, ⟨matched, u, hdispatch, rfl⟩ | ⟨-, rfl⟩⟩ := onChecksum_next_cases h
  · have command : DropsAtMostOneOf commandDrops s u := dispatch_next_drops hdispatch
    exact .inr ⟨body ▸ matched, command⟩
  · exact .inl (.inr ⟨.crcMismatch, by decide, rfl⟩)

/-! ## The step -/

/-- R107: a byte's step notes at most one drop code, and one of a command check only if the byte is the checksum. -/
theorem stepByte_next_drops {b : Byte} {s t : State} (h : stepByte b s = .next t) :
    DropsAtMostOneOf framingDrops s t ∨ b = crc8 s.rxBody ∧ DropsAtMostOneOf commandDrops s t := by
  obtain ⟨-, rfl⟩ | ⟨-, rfl⟩ | ⟨-, rfl⟩ | ⟨-, rfl⟩ | ⟨-, rfl⟩ | ⟨-, hcheck⟩ := stepByte_next_cases h
  · exact .inl (onSync_drops b s)
  · exact .inl (onMarker_drops b s)
  · exact .inl (onCommand_drops b s)
  · exact .inl (onLength_drops b s)
  · exact .inl (onPayload_drops b s)
  · exact onChecksum_next_drops hcheck

/-- Settles O51: only a byte's step notes drop codes, and it notes one of the framing's or one of a command's checks. -/
theorem atMostOneDropPerStep : Obligations.AtMostOneDropPerStep := by
  intro s t h
  have one {codes : List DropCode} (noted : DropsAtMostOneOf codes s t) :
      t.drops = s.drops ∨ ∃ d : DropCode, t.drops = s.drops ++ [d] :=
    noted.imp_right fun ⟨d, _, added⟩ => ⟨d, added⟩
  obtain ⟨-, rfl⟩ | ⟨w, rest, -, rfl⟩ | ⟨b, rest, -, hbyte⟩ := step_next_cases h
  · exact .inl rfl
  · exact .inl rfl
  · obtain framing | ⟨-, command⟩ := stepByte_next_drops hbyte
    · exact one framing
    · exact one command

/-- Settles O52: InvalidChannel is added only on a matching byte (`step_invalidChannel`), and so are drop codes 4 and 5. -/
theorem checksumTestedFirst : Obligations.ChecksumTestedFirst := by
  intro s t b rest input mismatch h
  have sticky : s.faults.invalidChannel = true → t.faults.invalidChannel = true :=
    step_faults_sticky (k := .invalidChannel) h
  have notAdded (after : t.faults.invalidChannel = true) : s.faults.invalidChannel = true := by
    by_contra before
    obtain ⟨-, _, _, _, _, _, matched, -⟩ := step_invalidChannel h after (Bool.eq_false_of_not_eq_true before)
    simp [input, mismatch] at matched
  have hbyte : stepByte b { s with input := rest } = .next t := (step_of_byte input).symm.trans h
  have framing : DropsAtMostOneOf framingDrops s t :=
    (stepByte_next_drops hbyte).resolve_right fun ⟨matched, _⟩ => mismatch matched
  exact ⟨Bool.eq_iff_iff.2 ⟨notAdded, sticky⟩, framing.ne_append (by decide), framing.ne_append (by decide)⟩

end Sys2Proof.Machine
end

section
/-! SUPPORT. Reset and the end of a run (70_reset_and_hazards.md): the state after power-on (R121), a run that consumes its
pending input (R129), and the zero bytes that return the parser to AwaitSync (R124). -/

namespace Sys2Proof.Machine

/-! ## Reset -/

/-- Settles O36: power-on sets each field the statement names. -/
theorem powerOnState : Obligations.PowerOnState :=
  fun _ _ => ⟨rfl, rfl, rfl, fun _ => rfl, rfl, rfl, rfl, rfl, rfl⟩

/-! ## A step takes one pending action -/

/-- R76, R105: what the overflow's reset has and what `f` makes of a stored byte, a Store followed by `f` has. -/
theorem State.storeThen_satisfies {P : State → Prop} {s : State} {b : Byte} {f : State → State}
    (overflow : P ((s.raiseFault .rxOverflow).noteDrop .rxOverflow).parserReset)
    (stored : P (f { s with rxbuf := s.rxbuf.write s.idx.toNat b, idx := s.idx + 1 })) : P (s.storeThen b f) := by
  rcases Nat.lt_or_ge s.idx.toNat s.params.rxCap with room | full
  · rwa [State.storeThen_of_lt b f room]
  · rwa [State.storeThen_of_le b f full]

/-- A framing rule leaves the pending input alone if what it does after its Store does. -/
theorem State.storeThen_input {s : State} (b : Byte) {f : State → State} (kept : ∀ u, (f u).input = u.input) :
    (s.storeThen b f).input = s.input :=
  State.storeThen_satisfies (P := fun u => u.input = s.input) rfl (kept _)

/-- R92: the router leaves the pending input alone. -/
theorem dispatch_next_input {cmd : Byte} {payload : List Byte} {s t : State} (h : dispatch cmd payload s = .next t) :
    t.input = s.input := by
  obtain ⟨i, u, -, ran, rfl⟩ | ⟨-, rfl⟩ := dispatch_next_cases h
  · obtain ⟨-, -, -, -, input⟩ := exec_next_parser ran
    exact input
  · rfl

/-- R75: `Step(b)` looks at no byte but `b`. -/
theorem stepByte_next_input {b : Byte} {s t : State} (h : stepByte b s = .next t) : t.input = s.input := by
  obtain ⟨-, rfl⟩ | ⟨-, rfl⟩ | ⟨-, rfl⟩ | ⟨-, rfl⟩ | ⟨-, rfl⟩ | ⟨-, check⟩ := stepByte_next_cases h
  · unfold onSync
    split
    · exact State.storeThen_input b fun _ => rfl
    · rfl
  · unfold onMarker
    split
    · exact State.storeThen_input b fun _ => rfl
    · rfl
  · exact State.storeThen_input b fun _ => rfl
  · exact State.storeThen_input b fun _ => by split <;> rfl
  · exact State.storeThen_input b fun _ => by split <;> rfl
  · obtain ⟨-, cmd, len, payload, -, ⟨-, u, ran, rfl⟩ | ⟨-, rfl⟩⟩ := onChecksum_next_cases check
    · exact (State.parserReset_input u).trans (dispatch_next_input ran)
    · rfl

/-- R126, R129: a step takes the first pending action, if there is one. -/
theorem step_next_input {s t : State} (h : step s = .next t) : t.input = s.input.tail := by
  obtain ⟨input, rfl⟩ | ⟨w, rest, input, rfl⟩ | ⟨b, rest, input, byte⟩ := step_next_cases h
  · rw [input]; rfl
  · rw [input]; rfl
  · rw [input, stepByte_next_input byte]; rfl

/-- R75, R85, R129: within the invariants `n` steps never stop, and they take the first `n` pending actions. -/
theorem State.Inv.runs {s : State} (inv : s.Inv) (n : Nat) :
    ∃ t, runSteps n s = .next t ∧ t.input = s.input.drop n ∧ t.Inv := by
  induction n generalizing s with
  | zero => exact ⟨s, rfl, rfl, inv⟩
  | succ n ih =>
    obtain ⟨u, next, kept⟩ := inv.steps
    obtain ⟨t, ran, input, kept⟩ := ih kept
    refine ⟨t, (runSteps_succ next).trans ran, ?_, kept⟩
    rw [input, step_next_input next, List.drop_tail]

/-- Settles O41: as many steps as there are pending actions take all of them. -/
theorem runEndsAfterItsInput : Obligations.RunEndsAfterItsInput := by
  intro s inv
  obtain ⟨t, ran, input, kept⟩ := inv.runs s.input.length
  exact ⟨t, ran, input.trans List.drop_length, kept⟩

/-! ## Zero bytes on the way to AwaitSync -/

/-- R124: how many bytes of 0x00 the parser takes at most until it awaits SYNC. -/
def State.zerosToSync (s : State) : Nat :=
  match s.fsm with
  | .awaitSync => 0
  | .awaitMarker => 1
  | .awaitCommand => 3
  | .awaitLength => 2
  | .awaitPayload => s.expected.toNat - s.idx.toNat + 1
  | .awaitChecksum => 1

/-- No zero byte is missing exactly where SYNC is awaited. -/
theorem State.zerosToSync_eq_zero {s : State} : s.zerosToSync = 0 ↔ s.fsm = .awaitSync := by
  cases fsm : s.fsm <;> simp [State.zerosToSync, fsm]

/-- R80, R85: the longest way back is a payload of 255 bytes just announced, and its checksum byte. -/
theorem State.Inv.zerosToSync_le {s : State} (inv : s.Inv) : s.zerosToSync ≤ 256 := by
  cases fsm : s.fsm with
  | awaitPayload =>
    obtain ⟨beyond, -, expected, -⟩ := inv.index_of_awaitPayload fsm
    have small := (s.rxbuf.read 3).isLt
    simp only [State.zerosToSync, fsm]
    omega
  | _ => simp [State.zerosToSync, fsm]

/-- R76, R105: an overflow awaits SYNC, so a Store's rule is as near to it as the state with the byte stored. -/
theorem State.storeThen_zerosToSync_le {s : State} {b : Byte} {f : State → State} {n : Nat}
    (stored : (f { s with rxbuf := s.rxbuf.write s.idx.toNat b, idx := s.idx + 1 }).zerosToSync ≤ n) :
    (s.storeThen b f).zerosToSync ≤ n :=
  State.storeThen_satisfies (P := fun u => u.zerosToSync ≤ n) (Nat.zero_le n) stored

/-- R81: a payload byte stored below `expected` is one byte less to wait for. -/
theorem onPayload_zerosToSync_le {s : State} (b : Byte) (fsm : s.fsm = .awaitPayload)
    (below : s.idx.toNat < s.expected.toNat) : (onPayload b s).zerosToSync ≤ s.expected.toNat - s.idx.toNat := by
  have idx := toNat_succ_of_lt below
  refine State.storeThen_zerosToSync_le ?_
  split
  · simp only [State.zerosToSync]
    omega
  · simp only [State.zerosToSync, fsm, idx]
    omega

/-- R124: a byte of 0x00 brings the parser one byte nearer to AwaitSync, or finds it there and leaves it there. -/
theorem stepByte_zero_zerosToSync_le {s t : State} (inv : s.Inv) (h : stepByte 0 s = .next t) :
    t.zerosToSync ≤ s.zerosToSync - 1 := by
  obtain ⟨fsm, rfl⟩ | ⟨fsm, rfl⟩ | ⟨fsm, rfl⟩ | ⟨fsm, rfl⟩ | ⟨fsm, rfl⟩ | ⟨-, check⟩ := stepByte_next_cases h
  · rw [onSync, if_neg (by decide)]
    exact le_of_eq_of_le (State.zerosToSync_eq_zero.2 fsm) (Nat.zero_le _)
  · rw [onMarker, if_neg (by decide)]
    exact Nat.zero_le _
  · simp only [State.zerosToSync, fsm]
    exact State.storeThen_zerosToSync_le (Nat.le_refl 2)
  · simp only [State.zerosToSync, fsm]
    exact State.storeThen_zerosToSync_le (Nat.le_refl 1)
  · obtain ⟨-, below, -, -⟩ := inv.index_of_awaitPayload fsm
    simp only [State.zerosToSync, fsm]
    exact onPayload_zerosToSync_le 0 fsm below
  · obtain ⟨-, cmd, len, payload, -, ⟨-, u, -, rfl⟩ | ⟨-, rfl⟩⟩ := onChecksum_next_cases check <;> exact Nat.zero_le _

theorem step_zero_zerosToSync_le {s t : State} {rest : List EnvEvent} (inv : s.Inv) (input : s.input = .byte 0 :: rest)
    (h : step s = .next t) : t.zerosToSync ≤ s.zerosToSync - 1 :=
  stepByte_zero_zerosToSync_le (s := { s with input := rest }) (inv.of_same_parser rfl rfl rfl rfl rfl)
    ((step_of_byte input).symm.trans h)

/-- R124: `n` bytes of 0x00 bring the parser `n` bytes nearer to AwaitSync, or all the way. -/
theorem runSteps_zeros_zerosToSync_le {s t : State} {n : Nat} {rest : List EnvEvent} (inv : s.Inv)
    (input : s.input = List.replicate n (.byte 0) ++ rest) (ran : runSteps n s = .next t) :
    t.zerosToSync ≤ s.zerosToSync - n := by
  induction n generalizing s with
  | zero =>
    obtain rfl := Host.Outcome.next.inj ran
    exact Nat.le_refl _
  | succ n ih =>
    obtain ⟨u, next, kept⟩ := inv.steps
    have more : u.input = List.replicate n (.byte 0) ++ rest := by
      rw [step_next_input next, input]
      rfl
    have first : u.zerosToSync ≤ s.zerosToSync - 1 := step_zero_zerosToSync_le inv input next
    have others : t.zerosToSync ≤ u.zerosToSync - n := ih kept more ((runSteps_succ next).symm.trans ran)
    omega

/-- Settles O60: 256 bytes are as many as the parser can be away from AwaitSync, where the invariants put `idx` at 0. -/
theorem zeroBytesReturnToSync : Obligations.ZeroBytesReturnToSync := by
  intro s rest inv input
  obtain ⟨t, ran, consumed, kept⟩ := inv.runs 256
  have arrived : t.fsm = .awaitSync := by
    have near := runSteps_zeros_zerosToSync_le inv input ran
    have bound := inv.zerosToSync_le
    exact State.zerosToSync_eq_zero.1 (by omega)
  refine ⟨t, ran, arrived, kept.idx_of_awaitSync arrived, ?_⟩
  rw [consumed, input, List.drop_left' List.length_replicate]

end Sys2Proof.Machine
end
